-- ==== Sys2Proof/Word.lean ====
section
/-! DEFINITION. The words of the frame engine: u8, u16 and u32 (spec 00_scope.md R8). -/

namespace Sys2Proof

/-- u8 (R8). Bit 0 is the least significant bit. -/
abbrev Byte := BitVec 8

/-- u16 (R8). -/
abbrev Half := BitVec 16

/-- u32, and i32 read as two's complement (R8). -/
abbrev Word := BitVec 32

end Sys2Proof
end

