-- ==== Sys2Proof/Syntax.lean ====
section
/-! DEFINITION. The instructions: one constructor per row of spec/opcode_table.json, and the words that stand for them on
the command port (spec 30_encoding.md R70, R73, R81). -/

namespace Sys2Proof

/-- The eleven commands of R73, with the fields of their format (R71), and the four wire command codes of R81, which the
model runs as the pseudo-operations of R86. Field names are the spec's: EV, EXP, CMD, ADDR, ACMD, N. -/
inductive Instr where
  | crca
  | crcb
  | encb (cmd : Byte)
  | decb (ev : Bool) (exp : Byte)
  | decbb (ev : Bool) (exp : Byte)
  | decw
  | enca (addr acmd : Byte)
  | deca
  | decab
  | rdx (n : Half)
  | rdb
  | pingReq
  | weightReq
  | pingAck
  | weightResp
deriving DecidableEq, Repr

/-- The two code spaces of spec/opcode_table.json: a 32-bit command word CW (R70), and byte 0 of a binary body (R81).
They overlap as numbers (0x10), so a word says which space it is of. -/
inductive PortWord where
  | command (cw : Word)
  | wire (code : Byte)
deriving DecidableEq, Repr

end Sys2Proof
end

