-- ==== Sys2Proof/WellFormed.lean ====
section
/-! DEFINITION. Which terms of Instr the encoding admits. Field widths are carried by the types; one check is left
(spec 30_encoding.md R71: "EXP ... must be 0 when EV = 0"). -/

namespace Sys2Proof

/-- R71, R74: in format E, EXP is 0 when EV = 0. -/
def expectedCodeOk (ev : Bool) (exp : Byte) : Bool := ev || exp == 0

/-- A term that some word encodes. -/
def Instr.wellFormed : Instr → Bool
  | .crca => true
  | .crcb => true
  | .encb _ => true
  | .decb ev exp => expectedCodeOk ev exp
  | .decbb ev exp => expectedCodeOk ev exp
  | .decw => true
  | .enca _ _ => true
  | .deca => true
  | .decab => true
  | .rdx _ => true
  | .rdb => true
  | .pingReq => true
  | .weightReq => true
  | .pingAck => true
  | .weightResp => true

end Sys2Proof
end

