-- ==== Sys2Proof/Decode.lean ====
section
/-! DEFINITION. Decoding of the words on the command port, total and rejecting by name (spec 30_encoding.md R71 to R74),
and the encoder beside it (R71, R73). -/

namespace Sys2Proof

/-- Why a word is no instruction: R74's IllegalOp(op) for a command word; a byte that R81 and R86 give no
pseudo-operation for, in the wire code space. -/
inductive DecodeReject where
  | illegalOp (op : Byte)
  | unlistedWireCode (code : Byte)
deriving DecidableEq, Repr

/-! ## Fields of a command word (R71, R72: unsigned, taken as is) -/

/-- OP = CW[7:0]. -/
def opField (cw : Word) : Byte := cw.extractLsb' 0 8

/-- CMD, and ADDR: CW[15:8]. -/
def byteField1 (cw : Word) : Byte := cw.extractLsb' 8 8

/-- EXP, and ACMD: CW[23:16]. -/
def byteField2 (cw : Word) : Byte := cw.extractLsb' 16 8

/-- N = CW[23:8]. -/
def halfField (cw : Word) : Half := cw.extractLsb' 8 16

/-- EV = CW[8]. -/
def evField (cw : Word) : Bool := cw.getLsbD 8

/-! ## Reserved-bit checks of R74, one per format -/

/-- Format Z: CW[31:8] is 0. -/
def decodeZ (cw : Word) (i : Instr) : Except DecodeReject Instr :=
  if cw.extractLsb' 8 24 = 0 then .ok i else .error (.illegalOp (opField cw))

/-- Format E: CW[31:24] and CW[15:9] are 0, and EXP is 0 when EV = 0. -/
def decodeE (cw : Word) (f : Bool → Byte → Instr) : Except DecodeReject Instr :=
  if cw.extractLsb' 24 8 = 0 ∧ cw.extractLsb' 9 7 = 0 ∧ (evField cw = false → byteField2 cw = 0) then
    .ok (f (evField cw) (byteField2 cw))
  else .error (.illegalOp (opField cw))

/-- Format B: CW[31:16] is 0. -/
def decodeB (cw : Word) (f : Byte → Instr) : Except DecodeReject Instr :=
  if cw.extractLsb' 16 16 = 0 then .ok (f (byteField1 cw)) else .error (.illegalOp (opField cw))

/-- Format A: CW[31:24] is 0. -/
def decodeA (cw : Word) (f : Byte → Byte → Instr) : Except DecodeReject Instr :=
  if cw.extractLsb' 24 8 = 0 then .ok (f (byteField1 cw) (byteField2 cw)) else .error (.illegalOp (opField cw))

/-- Format N: CW[31:24] is 0. -/
def decodeN (cw : Word) (f : Half → Instr) : Except DecodeReject Instr :=
  if cw.extractLsb' 24 8 = 0 then .ok (f (halfField cw)) else .error (.illegalOp (opField cw))

/-- R73's opcode map with R74's checks. -/
def decodeCommand (cw : Word) : Except DecodeReject Instr :=
  match (opField cw).toNat with
  | 0x01 => decodeZ cw .crca
  | 0x02 => decodeZ cw .crcb
  | 0x10 => decodeB cw .encb
  | 0x11 => decodeE cw .decb
  | 0x12 => decodeE cw .decbb
  | 0x13 => decodeZ cw .decw
  | 0x20 => decodeA cw .enca
  | 0x21 => decodeZ cw .deca
  | 0x22 => decodeZ cw .decab
  | 0x30 => decodeN cw .rdx
  | 0x31 => decodeZ cw .rdb
  | _ => .error (.illegalOp (opField cw))

/-- R81's four codes, each the code of one pseudo-operation of R86. Which other bytes are pseudo-operations the spec does
not say: rejected (log 17). -/
def decodeWire (code : Byte) : Except DecodeReject Instr :=
  match code.toNat with
  | 0x91 => .ok .pingReq
  | 0xA0 => .ok .weightReq
  | 0x51 => .ok .pingAck
  | 0x10 => .ok .weightResp
  | _ => .error (.unlistedWireCode code)

/-- The decoder: total on every word of both code spaces. -/
def decode : PortWord → Except DecodeReject Instr
  | .command cw => decodeCommand cw
  | .wire code => decodeWire code

/-! ## Encoder (R71, R73) -/

/-- Format Z: only OP. -/
def encodeZ (op : Byte) : Word := op.setWidth 32

/-- Format E: EXP in 23:16, EV in 8. -/
def encodeE (op : Byte) (ev : Bool) (exp : Byte) : Word :=
  (exp.setWidth 32 <<< 16) ||| ((BitVec.ofBool ev).setWidth 32 <<< 8) ||| op.setWidth 32

/-- Format B: CMD in 15:8. -/
def encodeB (op : Byte) (cmd : Byte) : Word := (cmd.setWidth 32 <<< 8) ||| op.setWidth 32

/-- Format A: ADDR in 15:8, ACMD in 23:16. -/
def encodeA (op : Byte) (addr acmd : Byte) : Word :=
  (acmd.setWidth 32 <<< 16) ||| (addr.setWidth 32 <<< 8) ||| op.setWidth 32

/-- Format N: N in 23:8. -/
def encodeN (op : Byte) (n : Half) : Word := (n.setWidth 32 <<< 8) ||| op.setWidth 32

/-- The word of a well-formed instruction. Every instruction is one word (R70). -/
def encode : Instr → PortWord
  | .crca => .command (encodeZ 0x01)
  | .crcb => .command (encodeZ 0x02)
  | .encb cmd => .command (encodeB 0x10 cmd)
  | .decb ev exp => .command (encodeE 0x11 ev exp)
  | .decbb ev exp => .command (encodeE 0x12 ev exp)
  | .decw => .command (encodeZ 0x13)
  | .enca addr acmd => .command (encodeA 0x20 addr acmd)
  | .deca => .command (encodeZ 0x21)
  | .decab => .command (encodeZ 0x22)
  | .rdx n => .command (encodeN 0x30 n)
  | .rdb => .command (encodeZ 0x31)
  | .pingReq => .wire 0x91
  | .weightReq => .wire 0xA0
  | .pingAck => .wire 0x51
  | .weightResp => .wire 0x10

/-! ## The host's numbering of table words -/

/-- The word of spec/opcode_table.json with number w: rows of the space binary_body_byte0 have 8 bits, rows of the space
command_word have 32 (log 9). The port takes a command word whole, so no byte order enters (R70). -/
def portWordOf (nbits w : Nat) : PortWord :=
  if nbits = 8 then .wire (BitVec.ofNat 8 w) else .command (BitVec.ofNat 32 w)

/-- What the decoder reads from the table word w of nbits bits. -/
def decodeTableWord (nbits w : Nat) : Option Instr :=
  match decode (portWordOf nbits w) with
  | .ok i => some i
  | .error _ => none

end Sys2Proof
end

