-- ==== Sys2Proof/Config.lean ====
section
/-! DEFINITION. The implementation parameters of spec 00_scope.md R6. A parameter marked OPEN is an opaque constant: no
proof can see its value. The CRC constants and the delimiters, which the source fixes, stand beside the algorithms that
use them (Machine/CrcEngine.lean, Machine/AsciiFrame.lean). P_TIMEOUT is the environment's and has no place in the block
(R6, D11). -/

namespace Sys2Proof

/-- P_VARIANT: BINARY (0) or ASCII (1) (R6, R23). -/
inductive Variant where
  | binary
  | ascii
deriving DecidableEq, Repr, Inhabited

/-- The three bytes of P_HEADER and CFG_HEADER, in wire order (R24). -/
structure Header where
  hdr0 : Byte
  hdr1 : Byte
  hdr2 : Byte
deriving DecidableEq, Repr, Inhabited

/-- The parameters the environment fixes before it releases reset (R6, R263): P_VARIANT, P_HEADER, P_ASCII_MAX. -/
structure Params where
  variant : Variant
  header : Header
  asciiMax : Half
deriving DecidableEq, Repr

/-- P_VARIANT, OPEN (R6, D4; log 1). -/
opaque Config.pVariant : Variant

/-- P_HEADER, OPEN (R6, D5; log 1). -/
opaque Config.pHeader : Header

/-- P_ASCII_MAX, decided 1024 (R6, D12; log 2). -/
def Config.pAsciiMax : Half := 1024

/-- The least legal P_ASCII_MAX (R6, R25). -/
def Config.asciiMaxLeast : Half := 6

/-- P_DIN_MAX, in bytes (R6, D3). -/
def Config.pDinMax : Nat := 65542

/-- The parameters of State.reset. -/
def Config.params : Params :=
  { variant := Config.pVariant, header := Config.pHeader, asciiMax := Config.pAsciiMax }

end Sys2Proof
end

