-- ==== Sys2Proof/Machine/State.lean ====
section
/-! DEFINITION. The state of the frame engine and of the environment it talks to, as plain data (spec 10_state.md,
20_memory.md R55 to R57, 70_reset_and_hazards.md R260, R261), and the state after reset. -/

namespace Sys2Proof.Machine

/-- The error names of 60_exceptions.md R220. Their numbers are Err.code in Machine/Flags.lean. -/
inductive Err where
  | ok
  | connectFailed
  | disconnected
  | timeout
  | badHeader
  | truncated
  | crcMismatch
  | badFraming
  | unexpectedCommand
  | payloadFormat
  | unexpectedResponse
  | illegalOp
  | wrongVariant
  | badOperand
deriving DecidableEq, Repr

/-- The fields of STATUS (R26). Bits 31:10 read as 0 and are not stored; the 32-bit register is Status.word. -/
structure Status where
  err : Err
  busy : Bool
  done : Bool
deriving DecidableEq, Repr

/-- PHASE (R32). -/
inductive Phase where
  | idle
  | bHdr
  | bLen
  | bBody
  | bCrc
  | aRead
  | xRead
  | rRead
deriving DecidableEq, Repr

/-- The result registers RES_* (R31). RES_RAW is an i32 in two's complement. RES_VMANT is unbounded. -/
structure Results where
  crc : Half
  len : Word
  cmd : Byte
  addr : Byte
  code : Byte
  raw : Word
  div : Byte
  stable : Bool
  wexp : BitVec 3
  vneg : Bool
  vmant : Nat
  vscale : Nat
deriving DecidableEq, Repr

/-- Every result register at 0: its reset value, and its value after accept (R31, R40, R261). -/
def Results.zero : Results :=
  { crc := 0, len := 0, cmd := 0, addr := 0, code := 0, raw := 0, div := 0, stable := false, wexp := 0, vneg := false,
    vmant := 0, vscale := 0 }

/-- The environment's stream: the bytes not yet delivered, in order, and whether Closed has been answered (R34, R56,
R57). -/
structure Stream where
  unread : List Byte
  shut : Bool
deriving DecidableEq, Repr

/-- The oracle's free choice at one read request (R55, R56, K5, K6): deliver about k bytes, close, or time out. What it
comes to as an answer is `oracle` in Machine/Transport.lean. -/
inductive Draw where
  | deliver (k : Nat)
  | close
  | timeOut
deriving DecidableEq, Repr

/-- What an issuer holds on the command port until BUSY = 0: a word to run, or the copy of DOUT into DIN that WRESP asks
of the environment (R40, R86, R270, R272). -/
inductive PortAction where
  | word (w : PortWord)
  | copyDout
deriving DecidableEq, Repr

/-- The environment's moves (R20): leave the turn to the block, write DIN, offer an action on the command port, answer the
pending read, open a new connection with the bytes its peer will send, have the peer send more, assert reset. -/
inductive EnvEvent where
  | blockTurn
  | din (bytes : List Byte)
  | offer (a : PortAction)
  | answer (d : Draw)
  | connect (bytes : List Byte)
  | arrive (bytes : List Byte)
  | reset
deriving DecidableEq, Repr

/-- Why the machine stops. Raised by the environment's own moves, never by an instruction. -/
inductive Fault where
  /-- The environment writes more than P_DIN_MAX bytes to DIN, which R28 says DIN cannot hold (`loadDin`). Safe: the
  model stops where the spec gives no effect (log 11). -/
  | dinCapacity
deriving DecidableEq, Repr

/-- Why the machine gives no meaning. -/
inductive Refusal where
  /-- An arm of exec whose instruction has no meaning yet. No arm answers it in this model. Safe. -/
  | notModelled (mnemonic : String)
  /-- P_ASCII_MAX or CFG_ASCII_MAX below 6: "not a legal configuration, and a model refuses it" (R25). Raised by `step`
  and by reset. Safe. -/
  | illegalConfig
  /-- An issuer runs a wire code that is no pseudo-operation of R86. Raised by `step`. Safe (log 17). -/
  | unlistedWireCode (code : Byte)
deriving DecidableEq, Repr

/-- The whole machine: the parameters, the block's registers and buffers (10_state.md), and the environment. -/
structure State where
  -- parameters, fixed before reset is released (R6, R263)
  params : Params
  -- configuration registers (R23, R24, R25)
  cfgVariant : Variant
  cfgHeader : Header
  cfgAsciiMax : Half
  -- STATUS (R26)
  status : Status
  -- buffers (R28, R29, R30)
  din : List Byte
  dinSnap : List Byte
  dout : List Byte
  rxbuf : List Byte
  -- result registers (R31)
  res : Results
  -- sequencing state (R32, R33)
  phase : Phase
  need : Half
  bLenVal : Half
  hdrbuf : List Byte
  bodybuf : List Byte
  crcbuf : List Byte
  cmdLatch : Word
  -- the environment (R20, R34, R56, R57)
  port : List PortAction
  stream : Stream
  sched : List EnvEvent
deriving DecidableEq, Repr

/-- The block at the values of R261 under parameters p, with the environment as given: reset does not touch the stream,
the held commands or the environment's coming moves (R261, K11; log 18). -/
def State.resetWith (p : Params) (port : List PortAction) (stream : Stream) (sched : List EnvEvent) : State :=
  { params := p
    cfgVariant := p.variant
    cfgHeader := p.header
    cfgAsciiMax := p.asciiMax
    status := { err := .ok, busy := false, done := false }
    din := []
    dinSnap := []
    dout := []
    rxbuf := []
    res := Results.zero
    phase := .idle
    need := 0
    bLenVal := 0
    hdrbuf := []
    bodybuf := []
    crcbuf := []
    cmdLatch := 0
    port := port
    stream := stream
    sched := sched }

/-- The machine right after reset (R261), with the parameters of Config and an environment that has done nothing yet:
no command offered, no byte arrived (log 3). -/
def State.reset : State :=
  State.resetWith Config.params [] { unread := [], shut := false } []

end Sys2Proof.Machine
end

