-- ==== Sys2Proof/Machine/Flags.lean ====
section
/-! DEFINITION. STATUS as the environment reads it: the error codes of spec 60_exceptions.md R220 and the layout of
10_state.md R26, and the whole view the environment has of the block (R20, R26, R29, R31). -/

namespace Sys2Proof.Machine

/-- The error numbers of R220. -/
def Err.code : Err → Byte
  | .ok => 0x00
  | .connectFailed => 0x01
  | .disconnected => 0x02
  | .timeout => 0x03
  | .badHeader => 0x10
  | .truncated => 0x11
  | .crcMismatch => 0x12
  | .badFraming => 0x13
  | .unexpectedCommand => 0x14
  | .payloadFormat => 0x15
  | .unexpectedResponse => 0x20
  | .illegalOp => 0x30
  | .wrongVariant => 0x31
  | .badOperand => 0x32

/-- The errors that keep RES_CODE (R221, R222). -/
def Err.keepsCode : Err → Bool
  | .unexpectedCommand => true
  | .unexpectedResponse => true
  | _ => false

/-- The 32-bit STATUS register (R26): ERR in 7:0, BUSY in 8, DONE in 9, 31:10 read as 0. -/
def Status.word (st : Status) : Word :=
  st.err.code.setWidth 32 ||| ((BitVec.ofBool st.busy).setWidth 32 <<< 8) |||
    ((BitVec.ofBool st.done).setWidth 32 <<< 9)

/-- STATUS of an operation in flight (R40). -/
def Status.inFlight : Status := { err := .ok, busy := true, done := false }

/-- STATUS of a completed operation (R41, R221). -/
def Status.completed (e : Err) : Status := { err := e, busy := false, done := true }

/-- What the environment can read (R26, R29, R31). RXBUF and the sequencing state it cannot (R30, R32, R33). DESIGN CHOICE: of CFG_*,
DIN and DIN_SNAP the spec does not say whether it can (R23 to R25, R28); they are left out of the view (log 26). -/
structure Visible where
  status : Word
  dout : List Byte
  res : Results
deriving DecidableEq, Repr

/-- The environment's view of the block. -/
def State.visible (s : State) : Visible := { status := s.status.word, dout := s.dout, res := s.res }

/-- "Result registers and DOUT hold a meaningful value only while DONE = 1 and ERR = 0x00" (R27). -/
def State.resultsValid (s : State) : Bool := s.status.done && s.status.err == .ok

end Sys2Proof.Machine
end

