-- ==== Sys2Proof/Machine/Operands.lean ====
section
/-! DEFINITION. Byte sequences and the little-endian fields read from them (spec 00_scope.md R9, 20_memory.md R52). -/

namespace Sys2Proof.Machine

/-- le16(v): low byte first (R9). -/
def le16 (v : Half) : List Byte := [v.extractLsb' 0 8, v.extractLsb' 8 8]

/-- s[i] (R9). Every rule reads inside the sequence; past its end this is 0. -/
def byteAt (s : List Byte) (i : Nat) : Byte := s.getD i 0

/-- s[i..j) (R9). -/
def slice (s : List Byte) (i j : Nat) : List Byte := (s.drop i).take (j - i)

/-- rd_le16(s, i) (R9). -/
def rdLe16 (s : List Byte) (i : Nat) : Half :=
  (byteAt s i).setWidth 16 ||| ((byteAt s (i + 1)).setWidth 16 <<< 8)

/-- rd_le32s(s, i): the i32 whose bytes, low byte first, stand at i (R9). Its value is the word's toInt. -/
def rdLe32s (s : List Byte) (i : Nat) : Word :=
  (byteAt s i).setWidth 32 ||| ((byteAt s (i + 1)).setWidth 32 <<< 8) |||
    ((byteAt s (i + 2)).setWidth 32 <<< 16) ||| ((byteAt s (i + 3)).setWidth 32 <<< 24)

/-- The three header bytes in wire order (R24, R80). -/
def headerBytes (h : Header) : List Byte := [h.hdr0, h.hdr1, h.hdr2]

/-- A length as RES_LEN holds it (R31: u32). Every buffer is far shorter than 2^32. -/
def lenWord (n : Nat) : Word := BitVec.ofNat 32 n

end Sys2Proof.Machine
end

