-- ==== Sys2Proof/Machine/Ops.lean ====
section
/-! DEFINITION. The operations every instruction is written with: accept, completion with and without an error, variant
gating, the start of a read, and reset (spec 10_state.md R40, R41; 60_exceptions.md R221; 30_encoding.md R78; 43_transport.md
R180; 70_reset_and_hazards.md R260). -/

namespace Sys2Proof.Machine

/-- R40, the latching part of accept: CMD_LATCH, DIN_SNAP, and every result cleared, BUSY set. -/
def accept (cw : Word) (s : State) : State :=
  { s with
    cmdLatch := cw
    dinSnap := s.din
    dout := []
    res := Results.zero
    status := Status.inFlight }

/-- What R41 and R221 do alike at the end of an operation: PHASE and NEED, and the four internal buffers emptied. -/
def clearSequencing (s : State) : State :=
  { s with phase := .idle, need := 0, rxbuf := [], hdrbuf := [], bodybuf := [], crcbuf := [] }

/-- R41, `finish`: completion with OK. DOUT and the result registers keep what the operation wrote. -/
def finish (s : State) : State :=
  { clearSequencing s with status := Status.completed .ok }

/-- R221, `raise e`: error completion, the block's exception entry. DOUT is emptied and every result register cleared but
RES_CODE where e keeps it. CFG_*, DIN, DIN_SNAP, CMD_LATCH, B_LEN_VAL and the stream stay. There is no handler and no return
(R226): the block is ready for the next accept. -/
def raise (e : Err) (s : State) : State :=
  { clearSequencing s with
    status := Status.completed e
    dout := []
    res := { Results.zero with code := if e.keepsCode then s.res.code else 0 } }

/-- R222: RES_CODE takes the code that did not match, just before the raise. -/
def raiseWithCode (e : Err) (code : Byte) (s : State) : State :=
  raise e { s with res := { s.res with code := code } }

/-- R78: the operation runs in the permitted configuration and raises WrongVariant in the other. -/
def gate (v : Variant) (op : State → State) (s : State) : State :=
  if s.cfgVariant = v then op s else raise .wrongVariant s

/-- The first lines of read_exact(n) (R180), with PHASE naming the call in progress (R124): RXBUF <- [], NEED <- n. -/
def beginRead (p : Phase) (n : Half) (s : State) : State :=
  { s with phase := p, rxbuf := [], need := n }

/-- The environment writes DIN (R28). More than P_DIN_MAX bytes do not fit (log 11). -/
def loadDin (bytes : List Byte) (s : State) : Host.Outcome State Fault Refusal :=
  if bytes.length ≤ Config.pDinMax then .next { s with din := bytes } else .fault .dinCapacity

/-- R25: legal values of CFG_ASCII_MAX are 6 to 65535. -/
def asciiMaxLegal (n : Half) : Bool := Config.asciiMaxLeast.ule n

/-- R260: reset, at any step. The block takes the values of R261; the environment's stream, held commands and coming moves
stay. A configuration that R25 does not allow is refused. -/
def applyReset (s : State) : Host.Outcome State Fault Refusal :=
  if asciiMaxLegal s.params.asciiMax then .next (State.resetWith s.params s.port s.stream s.sched)
  else .refused .illegalConfig

/-- A command word that decodes to nothing (R40, R74, R75): accept latches CMD_LATCH and DIN_SNAP as for every word (R28, R33, R40),
and IllegalOp ends the operation, which from there changes nothing but STATUS, DOUT and the result registers (R75; DEDUCED, log
12). -/
def acceptIllegal (cw : Word) (s : State) : State := raise .illegalOp (accept cw s)

end Sys2Proof.Machine
end

