-- ==== Sys2Proof/Machine/CrcEngine.lean ====
section
/-! DEFINITION. The CRC engine: CRC-A, CRC-B, and the operations CRCA and CRCB (spec 40_crc.md). -/

namespace Sys2Proof.Machine

/-- CRCA_INIT (R6, R101, D6). -/
def crcaInit : Half := 0x0000

/-- CRCA_POLY (R6, R100). -/
def crcaPoly : Half := 0x1021

/-- CRCB_INIT (R6, R111). -/
def crcbInit : Half := 0xFFFF

/-- CRCB_POLY, reflected (R6, R110). CRCB_XOROUT is 0, so no final XOR is written (R111). -/
def crcbPoly : Half := 0xA001

/-- R100: k iterations of the loop over the accumulator and the view of the top byte. -/
def crcaLoop : Nat → Half → Half → Half
  | 0, acc, _ => acc
  | k + 1, acc, t =>
    crcaLoop k (if (acc ^^^ t) &&& 0x8000 ≠ 0 then (acc <<< 1) ^^^ crcaPoly else acc <<< 1) (t <<< 1)

/-- R100: crca_step. -/
def crcaStep (crc : Half) (b : Byte) : Half :=
  crcaLoop 8 0x0000 ((crc >>> 8) <<< 8) ^^^ (crc <<< 8) ^^^ b.setWidth 16

/-- R101: crc_a. -/
def crcA (data : List Byte) : Half := data.foldl crcaStep crcaInit

/-- R110: k iterations of the shift loop. -/
def crcbLoop : Nat → Half → Half
  | 0, crc => crc
  | k + 1, crc => crcbLoop k (if crc &&& 0x0001 ≠ 0 then (crc >>> 1) ^^^ crcbPoly else crc >>> 1)

/-- R110: crcb_step. -/
def crcbStep (crc : Half) (b : Byte) : Half := crcbLoop 8 (crc ^^^ b.setWidth 16)

/-- R111: crc_b. -/
def crcB (data : List Byte) : Half := data.foldl crcbStep crcbInit

/-- The common end of R104 and R114: publish c as RES_CRC and as two bytes of DOUT. -/
def publishCrc (c : Half) (s : State) : State :=
  finish { s with res := { s.res with crc := c, len := 2 }, dout := le16 c }

/-- CRCA (R104): CRC-A of DIN_SNAP, in both variants. -/
def execCrca (s : State) : Host.Outcome State Fault Refusal :=
  let t := accept (encodeZ 0x01) s
  .next (publishCrc (crcA t.dinSnap) t)

/-- CRCB (R114): CRC-B of DIN_SNAP, in both variants. -/
def execCrcb (s : State) : Host.Outcome State Fault Refusal :=
  let t := accept (encodeZ 0x02) s
  .next (publishCrc (crcB t.dinSnap) t)

end Sys2Proof.Machine
end

