-- ==== Sys2Proof/Machine/AsciiFrame.lean ====
section
/-! DEFINITION. The ASCII frame codec: ENCA, DECAB and DECA (spec 42_ascii_frame.md; layout in 30_encoding.md R83). -/

namespace Sys2Proof.Machine

/-- STX (R6, R83). -/
def stx : Byte := 0x02

/-- ETX (R6, R83). -/
def etx : Byte := 0x03

/-- R150 after its variant check. DIN is not read. -/
def encodeAscii (addr acmd : Byte) (s : State) : State :=
  let f := [stx, addr, acmd, etx]
  finish { s with dout := f ++ le16 (crcB f), res := { s.res with crc := crcB f, len := 6 } }

/-! ## Decimal payload (R152) -/

/-- D of R152: a byte 0x30..0x39. -/
def isDigit (b : Byte) : Bool := (0x30#8).ule b && b.ule 0x39#8

/-- What the loop of R152 has gathered: the digits before and after the point, and whether the point was seen. -/
structure DigitScan where
  ip : List Byte
  fp : List Byte
  point : Bool
deriving DecidableEq, Repr

/-- The loop of R152 from index j on; none where it fails. -/
def scanDigits : List Byte → DigitScan → Option DigitScan
  | [], acc => some acc
  | b :: rest, acc =>
    if isDigit b then
      scanDigits rest (if acc.point then { acc with fp := acc.fp ++ [b] } else { acc with ip := acc.ip ++ [b] })
    else if b = 0x2E ∧ acc.point = false then scanDigits rest { acc with point := true }
    else none

/-- The natural number whose decimal digits are the bytes given (R152). -/
def decimalValue (digits : List Byte) : Nat := digits.foldl (fun n b => 10 * n + (b.toNat - 0x30)) 0

/-- The result of parse_decimal: (neg, mant, scale) (R152). -/
structure Decimal where
  neg : Bool
  mant : Nat
  scale : Nat
deriving DecidableEq, Repr

/-- R152 after the sign. -/
def parseUnsigned (neg : Bool) (p : List Byte) : Option Decimal :=
  match scanDigits p { ip := [], fp := [], point := false } with
  | none => none
  | some acc =>
    if acc.ip.length + acc.fp.length = 0 then none
    else some { neg := neg, mant := decimalValue (acc.ip ++ acc.fp), scale := acc.fp.length }

/-- R152: parse_decimal. -/
def parseDecimal (p : List Byte) : Option Decimal :=
  match p with
  | [] => parseUnsigned false []
  | b :: rest => if b = 0x2D then parseUnsigned true rest else parseUnsigned false (b :: rest)

/-- R154's pseudocode over a buffer: length, then CRC, then STX and ETX, then payload (R156). -/
def decodeAscii (buf : List Byte) (s : State) : State :=
  let n := buf.length
  if n < 6 then raise .truncated s
  else
    let c := crcB (buf.take (n - 2))
    if c ≠ rdLe16 buf (n - 2) then raise .crcMismatch s
    else if byteAt buf 0 ≠ stx ∨ byteAt buf (n - 3) ≠ etx then raise .badFraming s
    else
      let p := slice buf 3 (n - 3)
      match parseDecimal p with
      | none => raise .payloadFormat s
      | some d =>
        finish { s with
          dout := p
          res := { s.res with
            addr := byteAt buf 1
            cmd := byteAt buf 2
            crc := c
            vneg := d.neg
            vmant := d.mant
            vscale := d.scale
            len := lenWord (n - 6) } }

/-- DECA begins with its single bounded read (R160). -/
def startDeca (s : State) : State := { s with phase := .aRead }

/-- The value a decoded payload stands for: (-1)^neg × mant / 10^scale, an exact rational (R152). -/
def Results.decimal (r : Results) : Rat := (if r.vneg then -1 else 1) * r.vmant / 10 ^ r.vscale

/-- ENCA (R150). -/
def execEnca (addr acmd : Byte) (s : State) : Host.Outcome State Fault Refusal :=
  .next (gate .ascii (encodeAscii addr acmd) (accept (encodeA 0x20 addr acmd) s))

/-- DECAB (R154). -/
def execDecab (s : State) : Host.Outcome State Fault Refusal :=
  .next (gate .ascii (fun t => decodeAscii t.dinSnap t) (accept (encodeZ 0x22) s))

/-- DECA (R160): accept; the single read and the decode run in one read step. -/
def execDeca (s : State) : Host.Outcome State Fault Refusal :=
  .next (gate .ascii startDeca (accept (encodeZ 0x21) s))

end Sys2Proof.Machine
end

