-- ==== Sys2Proof/Machine/BinaryFrame.lean ====
section
/-! DEFINITION. The binary frame codec: ENCB, DECB and DECBB (spec 41_binary_frame.md; layout in 30_encoding.md R80). -/

namespace Sys2Proof.Machine

/-- The largest payload whose body fits the u16 length field (R120, D19). -/
def encbPayloadMax : Nat := 65534

/-- R80: header, length, body, CRC. -/
def binaryFrame (h : Header) (body : List Byte) : List Byte :=
  headerBytes h ++ le16 (BitVec.ofNat 16 body.length) ++ body ++ le16 (crcA body)

/-- R120 after its variant check: body = CMD ++ DIN_SNAP. -/
def encodeBinary (cmd : Byte) (s : State) : State :=
  if encbPayloadMax < s.dinSnap.length then raise .badOperand s
  else
    let body := cmd :: s.dinSnap
    let frame := binaryFrame s.cfgHeader body
    finish { s with dout := frame, res := { s.res with crc := crcA body, len := lenWord frame.length } }

/-- The end of R124 and R130: a body that passed its checks is delivered. -/
def deliverBody (body : List Byte) (s : State) : State :=
  finish { s with
    dout := body
    res := { s.res with len := lenWord body.length, crc := crcA body, cmd := byteAt body 0 } }

/-- R124 and R130 from the CRC compare on: CRC first, then the expected command (R125). -/
def checkBinary (ev : Bool) (exp : Byte) (body : List Byte) (rx : Half) (s : State) : State :=
  if crcA body ≠ rx then raise .crcMismatch s
  else
    match ev, body with
    | true, [] => raise .truncated s
    | true, b :: _ =>
      if b ≠ exp then raiseWithCode .unexpectedCommand b s else deliverBody body s
    | false, _ => deliverBody body s

/-! ## DECB: the four read_exact calls of R124, each continued when its bytes are complete -/

/-- DECB begins with the header read (R124). -/
def startDecb (s : State) : State := beginRead .bHdr 3 s

/-- After the body: the CRC read. -/
def decbAfterBody (body : List Byte) (s : State) : State :=
  beginRead .bCrc 2 { s with bodybuf := body }

/-- After the length: the body read, which for L = 0 completes at once and issues no request (R124, R186). -/
def decbAfterLength (lb : List Byte) (s : State) : State :=
  let len := rdLe16 lb 0
  let t := beginRead .bBody len { s with bLenVal := len }
  if len = 0 then decbAfterBody [] t else t

/-- After the header: it is compared before the length is read (R124, R125). -/
def decbAfterHeader (hdr : List Byte) (s : State) : State :=
  let t := { s with hdrbuf := hdr }
  if hdr ≠ headerBytes s.cfgHeader then raise .badHeader t else beginRead .bLen 2 t

/-- After the CRC: the checks, with EV and EXP as CMD_LATCH holds them (R124). -/
def decbAfterCrc (cb : List Byte) (s : State) : State :=
  checkBinary (evField s.cmdLatch) (byteField2 s.cmdLatch) s.bodybuf (rdLe16 cb 0) { s with crcbuf := cb }

/-! ## DECBB: the same over DIN_SNAP, inside the accept step -/

/-- R130, read_exact_din over the bytes not yet read: the next n and the rest, or none where DIN is used up. -/
def readExactDin (n : Nat) (rest : List Byte) : Option (List Byte × List Byte) :=
  if rest.length < n then none else some (rest.take n, rest.drop n)

/-- R130 after its variant check. Bytes after the CRC are ignored (D25). -/
def decodeBinaryDin (ev : Bool) (exp : Byte) (s : State) : State :=
  match readExactDin 3 s.dinSnap with
  | none => raise .disconnected s
  | some (hdr, d1) =>
    if hdr ≠ headerBytes s.cfgHeader then raise .badHeader s
    else
      match readExactDin 2 d1 with
      | none => raise .disconnected s
      | some (lb, d2) =>
        match readExactDin (rdLe16 lb 0).toNat d2 with
        | none => raise .disconnected s
        | some (body, d3) =>
          match readExactDin 2 d3 with
          | none => raise .disconnected s
          | some (cb, _) => checkBinary ev exp body (rdLe16 cb 0) s

/-- ENCB (R120). -/
def execEncb (cmd : Byte) (s : State) : Host.Outcome State Fault Refusal :=
  .next (gate .binary (encodeBinary cmd) (accept (encodeB 0x10 cmd) s))

/-- DECB (R124): accept and the start of the header read; the rest runs in read steps. -/
def execDecb (ev : Bool) (exp : Byte) (s : State) : Host.Outcome State Fault Refusal :=
  .next (gate .binary startDecb (accept (encodeE 0x11 ev exp) s))

/-- DECBB (R130). -/
def execDecbb (ev : Bool) (exp : Byte) (s : State) : Host.Outcome State Fault Refusal :=
  .next (gate .binary (decodeBinaryDin ev exp) (accept (encodeE 0x12 ev exp) s))

end Sys2Proof.Machine
end

