-- ==== Sys2Proof/Machine/Transport.lean ====
section
/-! DEFINITION. The transport reader: the stream oracle, RDX and RDB, and the read step that carries every stream
operation on (spec 20_memory.md R55 to R58, 43_transport.md). -/

namespace Sys2Proof.Machine

/-- The oracle's answer to one request (R55). -/
inductive Answer where
  | chunk (bytes : List Byte)
  | closed
  | timedOut
deriving DecidableEq, Repr

/-- How many bytes a chunk carries: the wished k brought into 1..r (R55: 1 ≤ len ≤ r; log 4). -/
def chunkSize (r k : Nat) : Nat := max 1 (min k r)

/-- The oracle's answer to a request of at most r bytes, and the stream after it (R55, R56). Closed is sticky: after it,
only Closed or TimedOut. A wish to deliver where the peer has sent nothing gives no answer yet: the read waits (R281, log 4). -/
def oracle (r : Nat) (d : Draw) (st : Stream) : Option (Answer × Stream) :=
  match d with
  | .timeOut => some (.timedOut, st)
  | .close => some (.closed, { st with shut := true })
  | .deliver k =>
    if st.shut then some (.closed, st)
    else
      match st.unread with
      | [] => none
      | _ :: _ =>
        some (.chunk (st.unread.take (chunkSize r k)), { st with unread := st.unread.drop (chunkSize r k) })

/-! ## read_exact (R180) and the two bounded reads (R160, R188) -/

/-- One answer to a read_exact in progress, continued by k when the bytes are complete (R180, R181). -/
def exactAnswer (k : List Byte → State → State) (ans : Answer) (s : State) : State :=
  match ans with
  | .chunk bytes =>
    let t := { s with rxbuf := s.rxbuf ++ bytes }
    if t.rxbuf.length < t.need.toNat then t else k t.rxbuf t
  | .closed => raise .disconnected s
  | .timedOut => raise .timeout s

/-- R184 when its bytes are complete. -/
def rdxDone (bytes : List Byte) (s : State) : State :=
  finish { s with dout := bytes, res := { s.res with len := lenWord bytes.length } }

/-- R160: the single answer of DECA. Closed is an empty buffer, hence Truncated (D13). -/
def decaAnswer (ans : Answer) (s : State) : State :=
  match ans with
  | .chunk bytes => decodeAscii bytes s
  | .closed => decodeAscii [] s
  | .timedOut => raise .timeout s

/-- R188: the single answer of RDB. Closed is an empty result (D13). -/
def rdbAnswer (ans : Answer) (s : State) : State :=
  match ans with
  | .chunk bytes => rdxDone bytes s
  | .closed => rdxDone [] s
  | .timedOut => raise .timeout s

/-! ## The read step (R181) -/

/-- A read_exact is in progress and lacks bytes, or a bounded read is pending (R181). -/
def readEnabled (s : State) : Bool :=
  s.status.busy &&
    match s.phase with
    | .idle => false
    | .bHdr | .bLen | .bBody | .bCrc | .xRead => decide (s.rxbuf.length < s.need.toNat)
    | .aRead | .rRead => true

/-- r of StreamRead(r): the bytes still missing (R180), or CFG_ASCII_MAX (R160, R188). -/
def requestSize (s : State) : Nat :=
  match s.phase with
  | .idle => 0
  | .bHdr | .bLen | .bBody | .bCrc | .xRead => s.need.toNat - s.rxbuf.length
  | .aRead | .rRead => s.cfgAsciiMax.toNat

/-- The answer goes to the operation PHASE names, which goes on to its next read or its end in the same step (R181). -/
def takeAnswer (ans : Answer) (s : State) : State :=
  match s.phase with
  | .idle => s
  | .bHdr => exactAnswer decbAfterHeader ans s
  | .bLen => exactAnswer decbAfterLength ans s
  | .bBody => exactAnswer decbAfterBody ans s
  | .bCrc => exactAnswer decbAfterCrc ans s
  | .xRead => exactAnswer rdxDone ans s
  | .aRead => decaAnswer ans s
  | .rRead => rdbAnswer ans s

/-- One read step: a StreamRead and its answer, atomic (R58, R181). Where no read is pending the oracle is not asked
(log 5). -/
def readStep (d : Draw) (s : State) : State :=
  if readEnabled s then
    match oracle (requestSize s) d s.stream with
    | none => s
    | some (ans, st) => takeAnswer ans { s with stream := st }
  else s

/-- R184 after accept: N = 0 finishes at once, with no read request (R186). -/
def startRdx (n : Half) (s : State) : State :=
  let t := beginRead .xRead n s
  if n = 0 then rdxDone [] t else t

/-- RDX (R184), in both variants. -/
def execRdx (n : Half) (s : State) : Host.Outcome State Fault Refusal :=
  .next (startRdx n (accept (encodeN 0x30 n) s))

/-- RDB (R188), in both variants. -/
def execRdb (s : State) : Host.Outcome State Fault Refusal :=
  .next { accept (encodeZ 0x31) s with phase := .rRead }

end Sys2Proof.Machine
end

