-- ==== Sys2Proof/Machine/WeightPayload.lean ====
section
/-! DEFINITION. The weight-response payload: DECW (spec 44_weight_payload.md; layout in 30_encoding.md R82). -/

namespace Sys2Proof.Machine

/-- The command byte of a weight response (R81, R82). -/
def weightRespCode : Byte := 0x10

/-- R200, R202: RES_WEXP of a division code; codes 5 to 255 use divisor 1.0 (R203). -/
def divisionExponent (div : Byte) : BitVec 3 :=
  if div.ule 4 then (4 - div).setWidth 3 else 0

/-- R200 after its variant check: empty, then command, then length (D17). -/
def decodeWeight (s : State) : State :=
  match s.dinSnap with
  | [] => raise .truncated s
  | b0 :: rest =>
    let b := b0 :: rest
    if b0 ≠ weightRespCode then raiseWithCode .unexpectedResponse b0 s
    else if b.length < 7 then raise .truncated s
    else
      finish { s with
        res := { s.res with
          cmd := weightRespCode
          raw := rdLe32s b 1
          div := byteAt b 5
          stable := byteAt b 6 != 0
          wexp := divisionExponent (byteAt b 5)
          len := lenWord b.length } }

/-- The exact weight a reading stands for: weight_kg = RES_RAW / 10^RES_WEXP (R202). -/
def Results.weightKg (r : Results) : Rat := r.raw.toInt / 10 ^ r.wexp.toNat

/-- DECW (R200). DOUT stays empty. -/
def execDecw (s : State) : Host.Outcome State Fault Refusal :=
  .next (gate .binary decodeWeight (accept (encodeZ 0x13) s))

end Sys2Proof.Machine
end

