-- ==== Sys2Proof/Machine/WireMessages.lean ====
section
/-! DEFINITION. The wire command codes of spec 30_encoding.md R81, each run as the pseudo-operation of R86 that stands for
it (log 7): the environment's part (DIN) and the accept of the command word, in one step. -/

namespace Sys2Proof.Machine

/-- PINGREQ (R86, R121): `.din 04` then ENCB 0x91. -/
def execPingReq (s : State) : Host.Outcome State Fault Refusal :=
  .next (gate .binary (encodeBinary 0x91) (accept (encodeB 0x10 0x91) { s with din := [0x04] }))

/-- WREQ (R86, R121): `.din` (empty) then ENCB 0xA0. -/
def execWeightReq (s : State) : Host.Outcome State Fault Refusal :=
  .next (gate .binary (encodeBinary 0xA0) (accept (encodeB 0x10 0xA0) { s with din := [] }))

/-- PINGACK (R86): DECB expect=0x51. -/
def execPingAck (s : State) : Host.Outcome State Fault Refusal :=
  .next (gate .binary startDecb (accept (encodeE 0x11 true 0x51) s))

/-- What WRESP leaves for the issuer to hold until DECB has completed: DIN <- DOUT, then DECW (R86, R272; log 8). -/
def wrespRest : List PortAction := [.copyDout, .word (.command (encodeZ 0x13))]

/-- WRESP (R86): DECB expect=0x10, then DIN <- DOUT, then DECW. -/
def execWeightResp (s : State) : Host.Outcome State Fault Refusal :=
  .next (gate .binary startDecb (accept (encodeE 0x11 true 0x10) { s with port := wrespRest ++ s.port }))

end Sys2Proof.Machine
end

