-- ==== Sys2Proof/Machine/Dispatch.lean ====
section
/-! DEFINITION. Each instruction's meaning: its accept step (spec 10_state.md R40) with all that runs in it. -/

namespace Sys2Proof.Machine

def exec (i : Instr) (s : State) : Host.Outcome State Fault Refusal :=
  match i with
  | .crca => Sys2Proof.Machine.execCrca s
  | .crcb => Sys2Proof.Machine.execCrcb s
  | .encb cmd => Sys2Proof.Machine.execEncb cmd s
  | .decb ev exp => Sys2Proof.Machine.execDecb ev exp s
  | .decbb ev exp => Sys2Proof.Machine.execDecbb ev exp s
  | .decw => Sys2Proof.Machine.execDecw s
  | .enca addr acmd => Sys2Proof.Machine.execEnca addr acmd s
  | .deca => Sys2Proof.Machine.execDeca s
  | .decab => Sys2Proof.Machine.execDecab s
  | .rdx n => Sys2Proof.Machine.execRdx n s
  | .rdb => Sys2Proof.Machine.execRdb s
  | .pingReq => Sys2Proof.Machine.execPingReq s
  | .weightReq => Sys2Proof.Machine.execWeightReq s
  | .pingAck => Sys2Proof.Machine.execPingAck s
  | .weightResp => Sys2Proof.Machine.execWeightResp s

end Sys2Proof.Machine
end

