-- ==== Sys2Proof/Machine/CommandPort.lean ====
section
/-! DEFINITION. What the block and the issuer do with the action that stands first on the command port (spec 10_state.md R40,
30_encoding.md R74, R86). -/

namespace Sys2Proof.Machine

/-- A word the port holds is run: decoded, then its meaning. A command word that decodes to nothing is accepted and ends with
IllegalOp (R74, R75); a wire code that is no pseudo-operation is refused (log 17). -/
def runWord (w : PortWord) (s : State) : Host.Outcome State Fault Refusal :=
  match w, decode w with
  | _, .ok i => exec i s
  | .command cw, .error _ => .next (acceptIllegal cw s)
  | .wire code, .error _ => .refused (.unlistedWireCode code)

/-- An action the port holds is carried out (BUSY = 0). -/
def runAction (a : PortAction) (s : State) : Host.Outcome State Fault Refusal :=
  match a with
  | .word w => runWord w s
  | .copyDout => loadDin s.dout s

/-- The block's turn: it accepts what stands first on the port, only while BUSY = 0 (R40, R270). Otherwise it has nothing to do:
idle, it keeps all state (R231); busy, it waits for the oracle's answer (R181, R281). -/
def blockStep (s : State) : Host.Outcome State Fault Refusal :=
  match s.status.busy, s.port with
  | false, a :: rest => runAction a { s with port := rest }
  | false, [] => .next s
  | true, _ => .next s

end Sys2Proof.Machine
end

