-- ==== Sys2Proof/Machine/Environment.lean ====
section
/-! DEFINITION. The environment's moves (spec 10_state.md R20): DIN, offers on the command port, answers, connections,
reset. -/

namespace Sys2Proof.Machine

/-- One move of the environment. -/
def envMove (e : EnvEvent) (s : State) : Host.Outcome State Fault Refusal :=
  match e with
  | .blockTurn => blockStep s
  -- R28, R60: at any time, also while an operation is in flight
  | .din bytes => loadDin bytes s
  -- R270: held on the port until BUSY = 0; several issuers are served in the order of their offers (R230)
  | .offer a => .next { s with port := s.port ++ [a] }
  -- R55, R181
  | .answer d => .next (readStep d s)
  -- R57, R274: a new connection, with the bytes its peer sends. DESIGN CHOICE: it may come while a read is in flight, where the spec
  -- is silent; RXBUF, NEED and PHASE stay and the read goes on from the new stream (log 27)
  | .connect bytes => .next { s with stream := { unread := bytes, shut := false } }
  -- the peer sends more on the same connection
  | .arrive bytes => .next { s with stream := { s.stream with unread := s.stream.unread ++ bytes } }
  -- R260
  | .reset => applyReset s

end Sys2Proof.Machine
end

