-- ==== Sys2Proof/Machine/Step.lean ====
section
/-! DEFINITION. One step of the machine. The field sched says who moves (log 3): its head is the environment's next move (spec
10_state.md R20), a read step where it answers a pending read (43_transport.md R181); where the environment leaves the turn, or
makes no more moves, the block accepts what the port holds (10_state.md R40, 70_reset_and_hazards.md R270). -/

namespace Sys2Proof.Machine

/-- One step. A configuration with CFG_ASCII_MAX below 6 is refused (R25). -/
def step (s : State) : Host.Outcome State Fault Refusal :=
  if asciiMaxLegal s.cfgAsciiMax then
    match s.sched with
    | [] => blockStep s
    | e :: rest => envMove e { s with sched := rest }
  else .refused .illegalConfig

/-- The table word w of nbits bits, held first on the command port of an idle block whose turn it is, so that the next step runs
it. The block fetches at no program counter (R22): commands come to the port from outside (log 10). BUSY = 0 and PHASE = IDLE are
what accept needs (R32, R40). -/
def State.withFetchWord (s : State) (nbits w : Nat) : State :=
  { s with
    status := { s.status with busy := false }
    phase := .idle
    port := .word (portWordOf nbits w) :: s.port
    sched := .blockTurn :: s.sched }

end Sys2Proof.Machine
end

