-- ==== Sys2Proof/Machine/Assembler.lean ====
section
/-! DEFINITION. The assembler lines of spec 30_encoding.md R85 and the pseudo-operations of R86, as the environment's moves.
Only the text form of a line is left out (Scope). -/

namespace Sys2Proof.Machine

/-- One line: a command, `.din`, or a pseudo-operation. -/
inductive AsmLine where
  | command (i : Instr)
  | din (bytes : List Byte)
  | pingreq
  | wreq
  | pingack
  | wresp
  | areq (addr acmd : Byte)
  | aresp
deriving DecidableEq, Repr

/-- A command is offered and the block has its turn. -/
def issue (i : Instr) : List EnvEvent := [.offer (.word (encode i)), .blockTurn]

/-- R86: what each line expands to. WRESP's last two actions are held on the port until its DECB has completed. -/
def AsmLine.expand : AsmLine → List EnvEvent
  | .command i => issue i
  | .din bytes => [.din bytes]
  | .pingreq => .din [0x04] :: issue (.encb 0x91)
  | .wreq => .din [] :: issue (.encb 0xA0)
  | .pingack => issue (.decb true 0x51)
  | .wresp => issue (.decb true 0x10) ++ [.offer .copyDout, .offer (.word (encode .decw))]
  | .areq addr acmd => issue (.enca addr acmd)
  | .aresp => issue .deca

end Sys2Proof.Machine
end

