-- ==== Sys2Proof/Safety.lean ====
section
/-! DEFINITION. What holds of every state a run reaches: the invariant Inv, part by part from the spec. It rules out the states
that are terms of State and that no run reaches. -/

namespace Sys2Proof.Machine

/-- R23 to R25, R228, R260: the configuration registers hold the parameters, which are legal (R25). -/
abbrev ConfigFromParams (s : State) : Prop :=
  asciiMaxLegal s.params.asciiMax = true ∧ s.cfgVariant = s.params.variant ∧ s.cfgHeader = s.params.header ∧
    s.cfgAsciiMax = s.params.asciiMax

/-- R26, R27, R32, R35, R223: BUSY and DONE are never both 1, PHASE = IDLE exactly when BUSY = 0, ERR is written at completion
only, and ConnectFailed is never produced. -/
abbrev StatusLegal (s : State) : Prop :=
  ¬(s.status.busy = true ∧ s.status.done = true) ∧ (s.phase = .idle ↔ s.status.busy = false) ∧
    (s.status.done = false → s.status.err = .ok) ∧ s.status.err ≠ .connectFailed

/-- The lengths of R28, R29, R30, R33. -/
abbrev BuffersFit (s : State) : Prop :=
  s.din.length ≤ Config.pDinMax ∧ s.dinSnap.length ≤ Config.pDinMax ∧ s.dout.length ≤ Config.pDinMax ∧
    s.rxbuf.length ≤ 65535 ∧ s.bodybuf.length ≤ 65535 ∧ (s.hdrbuf = [] ∨ s.hdrbuf.length = 3) ∧
    s.crcbuf.length ≤ 2

/-- R41, R221: at the end of an operation NEED and the internal buffers are cleared, and they stay so while the block is idle. -/
abbrev IdleClean (s : State) : Prop :=
  s.phase = .idle → s.need = 0 ∧ s.rxbuf = [] ∧ s.hdrbuf = [] ∧ s.bodybuf = [] ∧ s.crcbuf = []

/-- R27, R31, R221, R222, R271: results stand only after a completion with OK, but for RES_CODE after the two errors that keep
it; RES_WEXP is 0..4, RES_VSCALE at most the payload's length, RES_LEN the length of a DOUT that is not empty. -/
abbrev ResultsLegal (s : State) : Prop :=
  (s.status.done = false → s.dout = [] ∧ s.res = Results.zero) ∧
    (s.status.err ≠ .ok →
      s.dout = [] ∧ s.res = { Results.zero with code := if s.status.err.keepsCode then s.res.code else 0 }) ∧
    (s.status.err = .ok → s.res.code = 0) ∧ s.res.wexp.toNat ≤ 4 ∧ s.res.vscale ≤ s.dout.length ∧
    (s.dout ≠ [] → s.res.len.toNat = s.dout.length)

/-- PHASE names a read_exact call (R181). -/
abbrev exactPhase (p : Phase) : Bool :=
  match p with
  | .bHdr | .bLen | .bBody | .bCrc | .xRead => true
  | .idle | .aRead | .rRead => false

/-- PHASE names a call of DECB (R32). -/
abbrev decbPhase (p : Phase) : Bool :=
  match p with
  | .bHdr | .bLen | .bBody | .bCrc => true
  | .idle | .aRead | .xRead | .rRead => false

/-- R180, R181: between steps a read_exact in progress lacks at least one byte, and a bounded read holds none. -/
abbrev ReadPending (s : State) : Prop :=
  (exactPhase s.phase = true → s.rxbuf.length < s.need.toNat) ∧ (s.phase = .aRead ∨ s.phase = .rRead → s.rxbuf = [])

/-- R124: what DECB has gathered at each of its four reads, for the command CMD_LATCH holds. -/
abbrev DecbProgress (s : State) : Prop :=
  (decbPhase s.phase = true →
      s.cfgVariant = .binary ∧ s.cmdLatch = encodeE 0x11 (evField s.cmdLatch) (byteField2 s.cmdLatch)) ∧
    (s.phase = .bHdr → s.need = 3) ∧
    (s.phase = .bLen → s.need = 2 ∧ s.hdrbuf = headerBytes s.cfgHeader) ∧
    (s.phase = .bBody → s.need = s.bLenVal ∧ s.hdrbuf = headerBytes s.cfgHeader) ∧
    (s.phase = .bCrc → s.need = 2 ∧ s.hdrbuf = headerBytes s.cfgHeader ∧ s.bodybuf.length = s.bLenVal.toNat)

/-- R160, R184, R188: the other stream operations, for the command CMD_LATCH holds. -/
abbrev ReadProgress (s : State) : Prop :=
  (s.phase = .xRead → s.cmdLatch = encodeN 0x30 s.need) ∧
    (s.phase = .aRead → s.cfgVariant = .ascii ∧ s.cmdLatch = encodeZ 0x21) ∧
    (s.phase = .rRead → s.cmdLatch = encodeZ 0x31)

/-- The invariant of the machine. -/
structure Inv (s : State) : Prop where
  config : ConfigFromParams s
  status : StatusLegal s
  buffers : BuffersFit s
  idle : IdleClean s
  results : ResultsLegal s
  pending : ReadPending s
  decb : DecbProgress s
  reads : ReadProgress s

/-- The coming step answers the pending read (R55, R181). -/
def ReadAnswered (s : State) : Prop :=
  ∃ d es, s.sched = .answer d :: es ∧ (oracle (requestSize s) d s.stream).isSome = true

/-- R281, D11: weak fairness of the oracle, the one assumption liveness rests on. Whenever the run from s has a read pending, the run
goes on, through whatever other moves of the environment, to a step that answers it or to a state in which no read is pending. -/
def WeaklyFair (s : State) : Prop :=
  ∀ (k : Nat) (t : State), Host.Core.run Sys2Proof.core k s = .next t → readEnabled t = true →
    ∃ (j : Nat) (u : State), Host.Core.run Sys2Proof.core j t = .next u ∧ (ReadAnswered u ∨ readEnabled u = false)

/-- A safe run: k steps that stop at nothing and keep the invariant throughout. -/
def SafeFor : Nat → State → Prop
  | 0, s => Inv s
  | k + 1, s => Inv s ∧ ∃ t, step s = .next t ∧ SafeFor k t

end Sys2Proof.Machine
end

