-- ==== Sys2Proof/Certificates/Slice0/Obligations.lean ====
section
/-! DEFINITION. The statements for the provers, with the words they use. Expected.* writes down results from the rules of spec/
in plain arithmetic, apart from the model's own field and frame functions. -/

namespace Sys2Proof.Expected

open Sys2Proof.Machine

/-- Low byte, high byte of a number below 2^16 (R9 le16, R52). -/
def bytesLE (n : Nat) : List Byte := [BitVec.ofNat 8 n, BitVec.ofNat 8 (n / 256)]

/-- The number a little-endian pair stands for (R9 rd_le16, R52). -/
def pairLE (lo hi : Byte) : Nat := lo.toNat + 256 * hi.toNat

/-- The command word that runs in an instruction's accept step (R71, R73; R86 for the wire codes). -/
def commandWord : Instr → Word
  | .crca => 0x00000001
  | .crcb => 0x00000002
  | .encb cmd => BitVec.ofNat 32 (0x10 + 256 * cmd.toNat)
  | .decb ev exp => BitVec.ofNat 32 (0x11 + 256 * ev.toNat + 65536 * exp.toNat)
  | .decbb ev exp => BitVec.ofNat 32 (0x12 + 256 * ev.toNat + 65536 * exp.toNat)
  | .decw => 0x00000013
  | .enca addr acmd => BitVec.ofNat 32 (0x20 + 256 * addr.toNat + 65536 * acmd.toNat)
  | .deca => 0x00000021
  | .decab => 0x00000022
  | .rdx n => BitVec.ofNat 32 (0x30 + 256 * n.toNat)
  | .rdb => 0x00000031
  | .pingReq => 0x00009110
  | .weightReq => 0x0000A010
  | .pingAck => 0x00510111
  | .weightResp => 0x00100111

/-- R73 and R74 on the number v of a command word: the instruction with its fields, or none. -/
def readCommand (v : Nat) : Option Instr :=
  let op := v % 2 ^ 8
  let above8 := v / 2 ^ 8
  let b1 := BitVec.ofNat 8 (v / 2 ^ 8)
  let b2 := BitVec.ofNat 8 (v / 2 ^ 16)
  let above16 := v / 2 ^ 16
  let above24 := v / 2 ^ 24
  let ev := v / 2 ^ 8 % 2
  let eLegal := above24 = 0 ∧ v / 2 ^ 9 % 2 ^ 7 = 0 ∧ ¬(ev = 0 ∧ v / 2 ^ 16 % 2 ^ 8 ≠ 0)
  if op = 0x01 ∧ above8 = 0 then some .crca
  else if op = 0x02 ∧ above8 = 0 then some .crcb
  else if op = 0x10 ∧ above16 = 0 then some (.encb b1)
  else if op = 0x11 ∧ eLegal then some (.decb (ev == 1) b2)
  else if op = 0x12 ∧ eLegal then some (.decbb (ev == 1) b2)
  else if op = 0x13 ∧ above8 = 0 then some .decw
  else if op = 0x20 ∧ above24 = 0 then some (.enca b1 b2)
  else if op = 0x21 ∧ above8 = 0 then some .deca
  else if op = 0x22 ∧ above8 = 0 then some .decab
  else if op = 0x30 ∧ above24 = 0 then some (.rdx (BitVec.ofNat 16 (v / 2 ^ 8)))
  else if op = 0x31 ∧ above8 = 0 then some .rdb
  else none

/-- The whole state after an operation that completes with OK in its accept step (R40, R41): every field, so the frame too. -/
def completed (s : State) (cw : Word) (dout : List Byte) (res : Results) : State :=
  { s with
    cmdLatch := cw, dinSnap := s.din, dout := dout, res := res
    status := { err := .ok, busy := false, done := true }
    phase := .idle, need := 0, rxbuf := [], hdrbuf := [], bodybuf := [], crcbuf := [] }

/-- The whole state after an operation that ends with error e in its accept step (R40, R221), RES_CODE being code. -/
def failed (s : State) (cw : Word) (e : Err) (code : Byte) : State :=
  { s with
    cmdLatch := cw, dinSnap := s.din, dout := [], res := { Results.zero with code := code }
    status := { err := e, busy := false, done := true }
    phase := .idle, need := 0, rxbuf := [], hdrbuf := [], bodybuf := [], crcbuf := [] }

/-- The whole state after an accept that leaves a stream operation in flight (R40), before its PHASE is set. -/
def inFlight (s : State) (cw : Word) : State :=
  { s with
    cmdLatch := cw, dinSnap := s.din, dout := [], res := Results.zero
    status := { err := .ok, busy := true, done := false } }

/-- The whole state after an operation in flight ends with error e and no kept code (R221): CMD_LATCH and DIN_SNAP stay. -/
def aborted (s : State) (e : Err) : State :=
  { s with
    dout := [], res := Results.zero
    status := { err := e, busy := false, done := true }
    phase := .idle, need := 0, rxbuf := [], hdrbuf := [], bodybuf := [], crcbuf := [] }

/-- The whole state after an operation in flight completes with OK (R41). -/
def ended (s : State) (dout : List Byte) (res : Results) : State :=
  { s with
    dout := dout, res := res
    status := { err := .ok, busy := false, done := true }
    phase := .idle, need := 0, rxbuf := [], hdrbuf := [], bodybuf := [], crcbuf := [] }

/-- R80 in arithmetic: header, length, body, CRC-A. -/
def frame (h : Header) (body : List Byte) : List Byte :=
  [h.hdr0, h.hdr1, h.hdr2] ++ bytesLE body.length ++ body ++ bytesLE (crcA body).toNat

/-- R83: STX, address, command, payload, ETX, CRC-B of all before it. -/
def asciiFrame (addr acmd : Byte) (p : List Byte) : List Byte :=
  let f := [0x02, addr, acmd] ++ p ++ [0x03]
  f ++ bytesLE (crcB f).toNat

/-- R124 and R130 over a finite byte sequence, flat: the error, the code kept, the body. -/
def binaryOutcome (h : Header) (ev : Bool) (exp : Byte) (d : List Byte) : Err × Byte × List Byte :=
  let len := pairLE (d.getD 3 0) (d.getD 4 0)
  let body := (d.drop 5).take len
  let rx := pairLE (d.getD (5 + len) 0) (d.getD (6 + len) 0)
  if d.length < 3 then (.disconnected, 0, [])
  else if d.take 3 ≠ [h.hdr0, h.hdr1, h.hdr2] then (.badHeader, 0, [])
  else if d.length < 5 then (.disconnected, 0, [])
  else if d.length < len + 7 then (.disconnected, 0, [])
  else if (crcA body).toNat ≠ rx then (.crcMismatch, 0, [])
  else if ev = true ∧ len = 0 then (.truncated, 0, [])
  else if ev = true ∧ d.getD 5 0 ≠ exp then (.unexpectedCommand, d.getD 5 0, [])
  else (.ok, 0, body)

/-- RES_* after a frame is delivered (R124): RES_LEN, RES_CRC, RES_CMD. -/
def frameResults (body : List Byte) : Results :=
  { Results.zero with len := BitVec.ofNat 32 body.length, crc := crcA body, cmd := body.headD 0 }

/-- The bits of a byte sequence as the message polynomial has them: first byte's bit 7 first (R102 item 2). -/
def messageBits (d : List Byte) : List Bool :=
  d.flatMap fun b =>
    [b.getLsbD 7, b.getLsbD 6, b.getLsbD 5, b.getLsbD 4, b.getLsbD 3, b.getLsbD 2, b.getLsbD 1, b.getLsbD 0]

/-- One step of the long division by x^16 + x^12 + x^5 + 1 over GF(2): the next coefficient enters below, and the divisor is
taken off where x^16 appears. -/
def divideStep (r : Half) (bit : Bool) : Half :=
  let next := (r <<< 1) ||| (BitVec.ofBool bit).setWidth 16
  if r.msb then next ^^^ 0x1021 else next

/-- A byte sequence with bit k of byte i changed. -/
def flipBit (d : List Byte) (i k : Nat) : List Byte := d.set i (d.getD i 0 ^^^ BitVec.twoPow 8 k)

/-- R152's value of a digit sequence, most significant digit first. -/
def digitsValue (digits : List Byte) : Nat := Nat.ofDigits 10 (digits.reverse.map fun b => b.toNat - 0x30)

/-- R152: D is a byte 0x30..0x39. -/
def AllDigits (p : List Byte) : Prop := ∀ b ∈ p, 0x30 ≤ b.toNat ∧ b.toNat ≤ 0x39

/-- R202: the divisor of a division code. -/
def divisor (div : Byte) : Rat :=
  match div.toNat with
  | 0 => 1 / 10000
  | 1 => 1 / 1000
  | 2 => 1 / 100
  | 3 => 1 / 10
  | _ => 1

/-- The weight-response body of R82. -/
def weightBody (r0 r1 r2 r3 div stab : Byte) : List Byte := [0x10, r0, r1, r2, r3, div, stab]

/-- RES_* after DECW on a body with these fields, len bytes long (R200, R202). -/
def weightResults (r0 r1 r2 r3 div stab : Byte) (len : Nat) : Results :=
  { Results.zero with
    cmd := 0x10
    raw := BitVec.ofNat 32 (r0.toNat + 2 ^ 8 * r1.toNat + 2 ^ 16 * r2.toNat + 2 ^ 24 * r3.toNat)
    div := div
    stable := decide (stab ≠ 0)
    wexp := if div.toNat ≤ 4 then BitVec.ofNat 3 (4 - div.toNat) else 0
    len := BitVec.ofNat 32 len }

/-- R71, R74, format Z: a command word with this opcode is i where its other bits are 0, and illegal elsewhere. -/
def FormatZ (op : Nat) (i : Instr) : Prop :=
  ∀ cw : Word, cw.toNat % 256 = op →
    decode (.command cw) = if cw.toNat = op then .ok i else .error (.illegalOp (BitVec.ofNat 8 op))

/-- R71, R74, format B: CMD in 15:8, the bits above it 0. -/
def FormatB (op : Nat) (f : Byte → Instr) : Prop :=
  ∀ cw : Word, cw.toNat % 256 = op →
    decode (.command cw) =
      if cw.toNat < 2 ^ 16 then .ok (f (BitVec.ofNat 8 (cw.toNat / 256))) else .error (.illegalOp (BitVec.ofNat 8 op))

/-- R71, R74, format A: ADDR in 15:8, ACMD in 23:16, the bits above them 0. -/
def FormatA (op : Nat) (f : Byte → Byte → Instr) : Prop :=
  ∀ cw : Word, cw.toNat % 256 = op →
    decode (.command cw) =
      if cw.toNat < 2 ^ 24 then .ok (f (BitVec.ofNat 8 (cw.toNat / 256)) (BitVec.ofNat 8 (cw.toNat / 65536)))
      else .error (.illegalOp (BitVec.ofNat 8 op))

/-- R71, R74, format N: N in 23:8, the bits above it 0. -/
def FormatN (op : Nat) (f : Half → Instr) : Prop :=
  ∀ cw : Word, cw.toNat % 256 = op →
    decode (.command cw) =
      if cw.toNat < 2 ^ 24 then .ok (f (BitVec.ofNat 16 (cw.toNat / 256))) else .error (.illegalOp (BitVec.ofNat 8 op))

/-- R71, R74, format E: EV in 8, EXP in 23:16 and 0 where EV = 0, the other bits 0. -/
def FormatE (op : Nat) (f : Bool → Byte → Instr) : Prop :=
  ∀ cw : Word, cw.toNat % 256 = op →
    decode (.command cw) =
      if cw.toNat < 2 ^ 24 ∧ cw.toNat / 512 % 128 = 0 ∧ (cw.toNat / 256 % 2 = 0 → cw.toNat / 65536 = 0) then
        .ok (f (cw.toNat / 256 % 2 == 1) (BitVec.ofNat 8 (cw.toNat / 65536)))
      else .error (.illegalOp (BitVec.ofNat 8 op))

/-- R78: outside variant v the instruction ends with WrongVariant, and nothing of the operation. -/
def OnlyIn (v : Variant) (i : Instr) : Prop :=
  ∀ s : State, s.cfgVariant ≠ v → exec i s = .next (failed s (commandWord i) .wrongVariant 0)

/-- The pure operations of R32. -/
def isPure : Instr → Bool
  | .crca | .crcb | .encb _ | .decbb _ _ | .enca _ _ | .decab | .decw => true
  | _ => false

/-- The block is idle, under a legal configuration, and it is the block's turn with `rest` of the environment's moves to come. -/
def TurnAt (s : State) (es : List EnvEvent) : Prop :=
  6 ≤ s.cfgAsciiMax.toNat ∧ s.status.busy = false ∧ s.sched = .blockTurn :: es

/-- Answers that all deliver bytes, with the wished sizes ks. -/
def deliveries (ks : List Nat) : List EnvEvent := ks.map fun k => .answer (.deliver k)

end Sys2Proof.Expected

open Sys2Proof Sys2Proof.Machine Sys2Proof.Expected

/-! ## Encoding -/

/-- R71, R73: no field of an encoding is dropped. -/
def Obligations.DecodeOfEncodeIsTheInstruction : Prop :=
  ∀ i : Instr, i.wellFormed = true → decode (encode i) = .ok i

/-- R73, R74: each word of both code spaces has at most one meaning, and only well-formed instructions are decoded. -/
def Obligations.EncodeOfDecodeIsTheWord : Prop :=
  ∀ (w : PortWord) (i : Instr), decode w = .ok i → i.wellFormed = true ∧ encode i = w

/-- R74: "every 32-bit word either decodes to one row of rule R73 with its fields, or raises IllegalOp". -/
def Obligations.CommandDecodingFollowsRule74 : Prop :=
  ∀ cw : Word,
    decode (.command cw) =
      match readCommand cw.toNat with
      | some i => .ok i
      | none => .error (.illegalOp (BitVec.ofNat 8 cw.toNat))

/-- Words of 95_test_vectors.md and R81 decode as the spec says. -/
def Obligations.SpecWordsDecode : Prop :=
  decode (.command 0x00000001) = .ok .crca ∧ decode (.command 0x00009110) = .ok (.encb 0x91) ∧
    decode (.command 0x00510111) = .ok (.decb true 0x51) ∧ decode (.command 0x00000111) = .ok (.decb true 0x00) ∧
    decode (.command 0x00100112) = .ok (.decbb true 0x10) ∧ decode (.command 0x00500120) = .ok (.enca 0x01 0x50) ∧
    decode (.command 0x00FFFF30) = .ok (.rdx 0xFFFF) ∧ decode (.command 0x00000013) = .ok .decw ∧
    decode (.command 0x00010011) = .error (.illegalOp 0x11) ∧ decode (.command 0x01000030) = .error (.illegalOp 0x30) ∧
    decode (.wire 0x91) = .ok .pingReq ∧ decode (.wire 0x10) = .ok .weightResp

/-! ## Reset, configuration, status, completion -/

/-- R261: what reset leaves in the block. The environment's fields are the model's own choice (log 3) and are not stated. -/
def Obligations.ResetValues : Prop :=
  let s := State.reset
  s.cfgVariant = Config.pVariant ∧ s.cfgHeader = Config.pHeader ∧ s.cfgAsciiMax = 1024 ∧
    s.status = { err := .ok, busy := false, done := false } ∧ s.status.word = 0 ∧
    s.din = [] ∧ s.dinSnap = [] ∧ s.dout = [] ∧
    s.res.crc = 0 ∧ s.res.len = 0 ∧ s.res.cmd = 0 ∧ s.res.addr = 0 ∧ s.res.code = 0 ∧ s.res.raw = 0 ∧ s.res.div = 0 ∧
    s.res.stable = false ∧ s.res.wexp = 0 ∧ s.res.vneg = false ∧ s.res.vmant = 0 ∧ s.res.vscale = 0 ∧
    s.phase = .idle ∧ s.need = 0 ∧ s.bLenVal = 0 ∧ s.cmdLatch = 0 ∧
    s.rxbuf = [] ∧ s.hdrbuf = [] ∧ s.bodybuf = [] ∧ s.crcbuf = []

/-- R260, R261: reset at any step, whatever PHASE is: every piece of the block's state takes its value of R261, no completion is
reported, and the stream stays as it is, without the bytes consumed. -/
def Obligations.ResetAtAnyStep : Prop :=
  ∀ (s : State) (es : List EnvEvent), 6 ≤ s.cfgAsciiMax.toNat → 6 ≤ s.params.asciiMax.toNat → s.sched = .reset :: es →
    ∃ t, step s = .next t ∧ t.params = s.params ∧
      t.cfgVariant = s.params.variant ∧ t.cfgHeader = s.params.header ∧ t.cfgAsciiMax = s.params.asciiMax ∧
      t.status = { err := .ok, busy := false, done := false } ∧
      t.din = [] ∧ t.dinSnap = [] ∧ t.dout = [] ∧ t.res = Results.zero ∧
      t.phase = .idle ∧ t.need = 0 ∧ t.bLenVal = 0 ∧ t.cmdLatch = 0 ∧
      t.rxbuf = [] ∧ t.hdrbuf = [] ∧ t.bodybuf = [] ∧ t.crcbuf = [] ∧ t.stream = s.stream

/-- R25: "A P_ASCII_MAX below 6 is not a legal configuration, and a model refuses it": no step is taken under it, and a reset that
would load it is refused. -/
def Obligations.IllegalConfigurationIsRefused : Prop :=
  (∀ s : State, s.cfgAsciiMax.toNat < 6 → step s = .refused .illegalConfig) ∧
    (∀ (s : State) (es : List EnvEvent), s.params.asciiMax.toNat < 6 → s.sched = .reset :: es →
      step s = .refused .illegalConfig)

/-- R26: the layout of STATUS. -/
def Obligations.StatusRegisterLayout : Prop :=
  ∀ st : Status,
    st.word.extractLsb' 0 8 = st.err.code ∧ st.word.getLsbD 8 = st.busy ∧ st.word.getLsbD 9 = st.done ∧
      st.word.extractLsb' 10 22 = 0

/-- R220: the error codes, all different. -/
def Obligations.ErrorCodes : Prop :=
  Err.ok.code = 0x00 ∧ Err.connectFailed.code = 0x01 ∧ Err.disconnected.code = 0x02 ∧ Err.timeout.code = 0x03 ∧
    Err.badHeader.code = 0x10 ∧ Err.truncated.code = 0x11 ∧ Err.crcMismatch.code = 0x12 ∧ Err.badFraming.code = 0x13 ∧
    Err.unexpectedCommand.code = 0x14 ∧ Err.payloadFormat.code = 0x15 ∧ Err.unexpectedResponse.code = 0x20 ∧
    Err.illegalOp.code = 0x30 ∧ Err.wrongVariant.code = 0x31 ∧ Err.badOperand.code = 0x32 ∧
    ∀ a b : Err, a.code = b.code → a = b

/-- R41: `finish`, the whole state. -/
def Obligations.FinishCompletesWithOk : Prop :=
  ∀ s : State,
    finish s =
      { s with
        status := { err := .ok, busy := false, done := true }
        phase := .idle, need := 0, rxbuf := [], hdrbuf := [], bodybuf := [], crcbuf := [] }

/-- R221: `raise`, the whole state: this block's exception entry. -/
def Obligations.RaiseCompletesWithError : Prop :=
  ∀ (e : Err) (s : State),
    raise e s =
      { s with
        status := { err := e, busy := false, done := true }
        phase := .idle, need := 0, rxbuf := [], hdrbuf := [], bodybuf := [], crcbuf := []
        dout := []
        res := { Results.zero with
          code := if e = .unexpectedCommand ∨ e = .unexpectedResponse then s.res.code else 0 } }

/-- R222, R40: after an accept step RES_CODE is 0 unless the operation ended with one of the two errors that keep it. -/
def Obligations.ResCodeOnlyAfterUnexpectedCodes : Prop :=
  ∀ (i : Instr) (s t : State), exec i s = .next t →
    t.status.err ≠ .unexpectedCommand → t.status.err ≠ .unexpectedResponse → t.res.code = 0

/-! ## The step -/

/-- R40, R77: on its turn an idle block runs the instruction the word at the head of the port decodes to. -/
def Obligations.StepRunsTheDecodedInstruction : Prop :=
  ∀ (s : State) (w : PortWord) (i : Instr) (rest : List PortAction),
    6 ≤ s.cfgAsciiMax.toNat → s.status.busy = false → s.port = .word w :: rest → decode w = .ok i →
      (s.sched = [] → step s = exec i { s with port := rest }) ∧
        (∀ es, s.sched = .blockTurn :: es → step s = exec i { s with port := rest, sched := es })

/-- The host's placement of a table word: the very next step runs it (log 10). -/
def Obligations.FetchWordRunsNext : Prop :=
  ∀ (s : State) (nbits w : Nat) (i : Instr),
    6 ≤ s.cfgAsciiMax.toNat → decodeTableWord nbits w = some i →
      step (s.withFetchWord nbits w) = exec i { s with status := { s.status with busy := false }, phase := .idle }

/-- R40, R74, R75: a word that decodes to nothing is accepted and ends with IllegalOp, the whole state; and from a state with Inv,
beyond accept's latches of CMD_LATCH and DIN_SNAP (R28, R33, R40), it changes nothing of the block but STATUS, DOUT and the result
registers (R75, read so: log 12). -/
def Obligations.IllegalWordEndsWithIllegalOp : Prop :=
  ∀ (s : State) (cw : Word) (r : DecodeReject) (rest : List PortAction) (es : List EnvEvent),
    TurnAt s es → s.port = .word (.command cw) :: rest → decode (.command cw) = .error r →
      step s = .next (failed { s with port := rest, sched := es } cw .illegalOp 0) ∧
        (Inv s →
          step s = .next
            { s with
              port := rest, sched := es, cmdLatch := cw, dinSnap := s.din
              status := { err := .illegalOp, busy := false, done := true }, dout := [], res := Results.zero })

/-- Every instruction answers a next state, on every state and operands. -/
def Obligations.EveryInstructionAnswersANextState : Prop :=
  ∀ (i : Instr) (s : State), ∃ t, exec i s = .next t ∧ t.cmdLatch = commandWord i

/-- R78: variant gating. A mismatch ends with WrongVariant and nothing of the operation; in the permitted configuration, and for
CRCA, CRCB, RDX and RDB in both, the error is never WrongVariant. -/
def Obligations.VariantGating : Prop :=
  (∀ i : Instr, (∃ cmd, i = .encb cmd) ∨ (∃ ev exp, i = .decb ev exp) ∨ (∃ ev exp, i = .decbb ev exp) ∨ i = .decw →
      OnlyIn .binary i ∧
        ∀ s t : State, s.cfgVariant = .binary → exec i s = .next t → t.status.err ≠ .wrongVariant) ∧
    (∀ i : Instr, (∃ addr acmd, i = .enca addr acmd) ∨ i = .deca ∨ i = .decab →
      OnlyIn .ascii i ∧
        ∀ s t : State, s.cfgVariant = .ascii → exec i s = .next t → t.status.err ≠ .wrongVariant) ∧
    (∀ (i : Instr) (s : State), i = .crca ∨ i = .crcb ∨ (∃ n, i = .rdx n) ∨ i = .rdb →
      ∃ t, exec i s = .next t ∧ t.status.err = .ok)

/-- R32: the pure operations complete in the step that accepts them and never leave IDLE. -/
def Obligations.PureOperationsCompleteAtAccept : Prop :=
  ∀ (i : Instr) (s : State), isPure i = true → s.phase = .idle →
    ∃ t, exec i s = .next t ∧ t.phase = .idle ∧ t.status.busy = false ∧ t.status.done = true

/-- R231: with nothing offered and no move of the environment the block keeps all state. -/
def Obligations.IdleBlockKeepsAllState : Prop :=
  ∀ s : State, 6 ≤ s.cfgAsciiMax.toNat → s.status.busy = false → s.port = [] → s.sched = [] → step s = .next s

/-! ## CRC engine -/

/-- R100, R102 item 1: the step is a table lookup on the top byte, the byte going into the low byte after it, and the table entries
the spec lists. -/
def Obligations.CrcaStepIsTheTableForm : Prop :=
  (∀ (crc : Half) (b : Byte),
      crcaStep crc b = crcaStep ((crc >>> 8) <<< 8) 0 ^^^ (crc <<< 8) ^^^ b.setWidth 16) ∧
    (List.range 16).map (fun i => (crcaStep (BitVec.ofNat 16 (256 * i)) 0).toNat) =
      [0x0000, 0x1021, 0x2042, 0x3063, 0x4084, 0x50A5, 0x60C6, 0x70E7, 0x8108, 0x9129, 0xA14A, 0xB16B, 0xC18C, 0xD1AD,
        0xE1CE, 0xF1EF] ∧
    crcaStep 0x8000 0 = 0x9188 ∧ crcaStep 0xFF00 0 = 0x1EF0

/-- R102 item 2: CRC-A is the remainder of the message polynomial by x^16 + x^12 + x^5 + 1. -/
def Obligations.CrcaIsThePolynomialRemainder : Prop :=
  ∀ d : List Byte, crcA d = (messageBits d).foldl divideStep 0

/-- R102 item 2, R103: the short cases and the leading zeros. -/
def Obligations.CrcaShortAndZeroLaws : Prop :=
  crcA [] = 0 ∧ (∀ b : Byte, crcA [b] = b.setWidth 16) ∧
    (∀ b0 b1 : Byte, (crcA [b0, b1]).toNat = 256 * b0.toNat + b1.toNat) ∧
    (∀ d : List Byte, crcA (0 :: d) = crcA d) ∧ (∀ n : Nat, crcA (List.replicate n 0) = 0)

/-- R102 item 2: CRC-A is linear over sequences of equal length. -/
def Obligations.CrcaIsLinear : Prop :=
  ∀ a b : List Byte, a.length = b.length → crcA (List.zipWith (· ^^^ ·) a b) = crcA a ^^^ crcA b

/-- R102 item 4: any single-bit change in the sequence changes CRC-A. -/
def Obligations.CrcaDetectsEverySingleBitChange : Prop :=
  ∀ (d : List Byte) (i k : Nat), i < d.length → k < 8 → crcA (flipBit d i k) ≠ crcA d

/-- R112 item 1: the table form of CRC-B and the entries the spec lists. -/
def Obligations.CrcbStepIsTheTableForm : Prop :=
  (∀ (crc : Half) (b : Byte), crcbStep crc b = (crc >>> 8) ^^^ crcbStep ((crc ^^^ b.setWidth 16) &&& 0x00FF) 0) ∧
    (List.range 16).map (fun i => (crcbStep (BitVec.ofNat 16 i) 0).toNat) =
      [0x0000, 0xC0C1, 0xC181, 0x0140, 0xC301, 0x03C0, 0x0280, 0xC241, 0xC601, 0x06C0, 0x0780, 0xC741, 0x0500, 0xC5C1,
        0xC481, 0x0440] ∧
    crcbStep 0x0080 0 = 0xA001 ∧ crcbStep 0x00FF 0 = 0x4040

/-- R112 item 3: the residue of CRC-B. -/
def Obligations.CrcbResidueIsZero : Prop :=
  ∀ d : List Byte, crcB (d ++ bytesLE (crcB d).toNat) = 0

/-- 95_test_vectors.md V-C10, V-C9, V-C15: check values of both CRCs. -/
def Obligations.CrcCheckValues : Prop :=
  crcA [0x31, 0x32, 0x33, 0x34, 0x35, 0x36, 0x37, 0x38, 0x39] = 0xBEEF ∧
    crcB [0x31, 0x32, 0x33, 0x34, 0x35, 0x36, 0x37, 0x38, 0x39] = 0x4B37 ∧
    crcA [0x01, 0x02, 0x03] = 0x1222 ∧ crcB [0x02, 0x01, 0x50, 0x03] = 0x5D2C ∧ crcB [] = 0xFFFF

/-- R104: CRCA, in both variants: its word and reserved bits, its result, its corner cases. -/
def Obligations.CrcaCompletes : Prop :=
  (∀ s : State,
      exec .crca s = .next (completed s 0x00000001 (bytesLE (crcA s.din).toNat)
        { Results.zero with crc := crcA s.din, len := 2 })) ∧
    FormatZ 0x01 .crca ∧
    crcA [] = 0x0000 ∧ crcA [0x31, 0x32, 0x33, 0x34, 0x35, 0x36, 0x37, 0x38, 0x39] = 0xBEEF ∧ crcA [0x91, 0x04] = 0x9104

/-- R114: CRCB, in both variants: its word and reserved bits, its result, its corner cases. -/
def Obligations.CrcbCompletes : Prop :=
  (∀ s : State,
      exec .crcb s = .next (completed s 0x00000002 (bytesLE (crcB s.din).toNat)
        { Results.zero with crc := crcB s.din, len := 2 })) ∧
    FormatZ 0x02 .crcb ∧
    crcB [] = 0xFFFF ∧ crcB [0x00] = 0x40BF ∧ crcB [0x02, 0x01, 0x50, 0x03] = 0x5D2C ∧
    ∀ (addr acmd : Byte) (p : List Byte), crcB (asciiFrame addr acmd p) = 0x0000

/-! ## Binary frame codec -/

/-- R120: ENCB: its encoding, its variant, and in BINARY the frame of R80 over body CMD ++ DIN, or BadOperand for a payload over
65534 bytes. -/
def Obligations.EncbCompletes : Prop :=
  FormatB 0x10 .encb ∧
    ∀ cmd : Byte, OnlyIn .binary (.encb cmd) ∧
      ∀ s : State, s.cfgVariant = .binary →
        (s.din.length ≤ 65534 →
            exec (.encb cmd) s = .next (completed s (commandWord (.encb cmd)) (frame s.cfgHeader (cmd :: s.din))
              { Results.zero with crc := crcA (cmd :: s.din), len := BitVec.ofNat 32 (s.din.length + 8) })) ∧
          (65534 < s.din.length → exec (.encb cmd) s = .next (failed s (commandWord (.encb cmd)) .badOperand 0))

/-- R130, with R124's checks in R125's order: DECBB: its encoding, its variant, and in BINARY, over every content of DIN, the whole
state. -/
def Obligations.DecbbCompletes : Prop :=
  FormatE 0x12 .decbb ∧
    ∀ (ev : Bool) (exp : Byte), OnlyIn .binary (.decbb ev exp) ∧
      ∀ s : State, s.cfgVariant = .binary →
        exec (.decbb ev exp) s =
          .next (match binaryOutcome s.cfgHeader ev exp s.din with
            | (.ok, _, body) => completed s (commandWord (.decbb ev exp)) body (frameResults body)
            | (e, code, _) => failed s (commandWord (.decbb ev exp)) e code)

/-- R131: what ENCB encodes, DECBB decodes to CMD ++ payload, and so does DECB over a stream that carries the frame, whatever the
chunking and whatever follows it. -/
def Obligations.EncodeThenDecodeGivesTheBody : Prop :=
  ∀ (cmd : Byte) (s : State), s.cfgVariant = .binary → s.din.length ≤ 65534 →
    ∃ t, exec (.encb cmd) s = .next t ∧ t.status.err = .ok ∧
      (∃ u, exec (.decbb true cmd) { t with din := t.dout } = .next u ∧
        u.status = { err := .ok, busy := false, done := true } ∧ u.dout = cmd :: s.din) ∧
      ∀ (ks : List Nat) (rest : List PortAction) (after : List Byte) (v : State),
        v.cfgVariant = .binary → v.cfgHeader = s.cfgHeader → TurnAt v (deliveries ks) →
        v.port = .word (.command (commandWord (.decb true cmd))) :: rest →
        v.stream = { unread := t.dout ++ after, shut := false } → t.dout.length ≤ ks.length →
          ∃ n u, Host.Core.run Sys2Proof.core n v = .next u ∧
            u.status = { err := .ok, busy := false, done := true } ∧ u.dout = cmd :: s.din ∧
            u.stream = { unread := after, shut := false }

/-- R132: one flipped bit in the body or the CRC gives CrcMismatch, one in the header BadHeader, whatever code is expected. -/
def Obligations.SingleBitCorruptionIsDetected : Prop :=
  ∀ (ev : Bool) (exp : Byte) (body : List Byte) (i k : Nat) (s : State), s.cfgVariant = .binary →
    1 ≤ body.length → body.length ≤ 65535 → i < body.length + 7 → k < 8 → s.din = flipBit (frame s.cfgHeader body) i k →
      (5 ≤ i → exec (.decbb ev exp) s = .next (failed s (commandWord (.decbb ev exp)) .crcMismatch 0)) ∧
        (i < 3 → exec (.decbb ev exp) s = .next (failed s (commandWord (.decbb ev exp)) .badHeader 0))

/-- R124, R130, R131, R133, R182: DECB over a stream that carries the bytes d and then closes ends as DECBB does over DIN = d, for
every d and every chunking; it consumes a prefix of d, of L + 7 bytes where it succeeds. -/
def Obligations.DecbOverAnyChunkingAgreesWithDecbb : Prop :=
  ∀ (ev : Bool) (exp : Byte) (d : List Byte) (ks : List Nat) (rest : List PortAction) (s : State),
    s.cfgVariant = .binary → (ev = false → exp = 0) →
    TurnAt s (deliveries ks ++ [.answer .close]) → s.port = .word (.command (commandWord (.decb ev exp))) :: rest →
    s.stream = { unread := d, shut := false } → d.length ≤ ks.length →
      ∃ n t u, 1 ≤ n ∧ Host.Core.run Sys2Proof.core n s = .next t ∧ t.status.busy = false ∧
        exec (.decbb ev exp) { s with din := d } = .next u ∧ t.visible = u.visible ∧
        ∃ used, d = used ++ t.stream.unread ∧ (t.status.err = .ok → used.length = t.dout.length + 7)

/-- R124: DECB: its encoding, its variant, its start, the size of each request, and its four reads when their bytes are complete,
PHASE by PHASE (a body of L = 0 is complete at once), or when the stream answers Closed or TimedOut. -/
def Obligations.DecbFollowsRule124 : Prop :=
  FormatE 0x11 .decb ∧ (∀ (ev : Bool) (exp : Byte), OnlyIn .binary (.decb ev exp)) ∧
    (∀ (ev : Bool) (exp : Byte) (s : State), s.cfgVariant = .binary →
      exec (.decb ev exp) s =
        .next { inFlight s (commandWord (.decb ev exp)) with phase := .bHdr, need := 3, rxbuf := [] }) ∧
    (∀ s : State, decbPhase s.phase = true →
      requestSize s = s.need.toNat - s.rxbuf.length ∧ takeAnswer .closed s = aborted s .disconnected ∧
        takeAnswer .timedOut s = aborted s .timeout) ∧
    (∀ (bytes : List Byte) (s : State), s.phase = .bHdr → s.need = 3 → s.rxbuf.length + bytes.length = 3 →
      takeAnswer (.chunk bytes) s =
        if s.rxbuf ++ bytes = [s.cfgHeader.hdr0, s.cfgHeader.hdr1, s.cfgHeader.hdr2] then
          { s with hdrbuf := s.rxbuf ++ bytes, phase := .bLen, need := 2, rxbuf := [] }
        else aborted s .badHeader) ∧
    (∀ (lo hi : Byte) (bytes : List Byte) (s : State), s.phase = .bLen → s.need = 2 → s.rxbuf ++ bytes = [lo, hi] →
      takeAnswer (.chunk bytes) s =
        if pairLE lo hi = 0 then { s with bLenVal := 0, bodybuf := [], phase := .bCrc, need := 2, rxbuf := [] }
        else
          { s with
            bLenVal := BitVec.ofNat 16 (pairLE lo hi), phase := .bBody, need := BitVec.ofNat 16 (pairLE lo hi), rxbuf := [] }) ∧
    (∀ (bytes : List Byte) (s : State), s.phase = .bBody → s.rxbuf.length + bytes.length = s.need.toNat →
      takeAnswer (.chunk bytes) s = { s with bodybuf := s.rxbuf ++ bytes, phase := .bCrc, need := 2, rxbuf := [] }) ∧
    (∀ (ev : Bool) (exp lo hi : Byte) (bytes : List Byte) (s : State), s.phase = .bCrc → s.need = 2 →
      s.rxbuf ++ bytes = [lo, hi] → s.cmdLatch = commandWord (.decb ev exp) → s.res = Results.zero →
      takeAnswer (.chunk bytes) s =
        if (crcA s.bodybuf).toNat ≠ pairLE lo hi then aborted s .crcMismatch
        else if ev = true ∧ s.bodybuf = [] then aborted s .truncated
        else if ev = true ∧ s.bodybuf.headD 0 ≠ exp then
          { aborted s .unexpectedCommand with res := { Results.zero with code := s.bodybuf.headD 0 } }
        else ended s s.bodybuf (frameResults s.bodybuf))

/-! ## Transport -/

/-- R184, R186: RDX, in both variants: its encoding, its start (for N = 0 it completes at accept, whatever the stream), the size of
its requests, and its end: with all N bytes, with Closed, with TimedOut. -/
def Obligations.RdxCompletes : Prop :=
  FormatN 0x30 .rdx ∧
    (∀ (n : Half) (s : State),
      exec (.rdx n) s =
        if n = 0 then .next (completed s 0x00000030 [] Results.zero)
        else .next { inFlight s (commandWord (.rdx n)) with phase := .xRead, need := n, rxbuf := [] }) ∧
    ∀ s : State, s.phase = .xRead →
      requestSize s = s.need.toNat - s.rxbuf.length ∧
        (∀ bytes, s.rxbuf.length + bytes.length = s.need.toNat → s.res = Results.zero →
          takeAnswer (.chunk bytes) s = ended s (s.rxbuf ++ bytes) { Results.zero with len := s.need.setWidth 32 }) ∧
        takeAnswer .closed s = aborted s .disconnected ∧ takeAnswer .timedOut s = aborted s .timeout

/-- R182, R184: RDX N over any chunking delivers the next N bytes, advances the stream by exactly N, in 1 to N read steps. -/
def Obligations.RdxDeliversExactlyTheNextBytes : Prop :=
  ∀ (n : Half) (ks : List Nat) (rest : List PortAction) (s : State),
    1 ≤ n.toNat → TurnAt s (deliveries ks) → s.port = .word (.command (commandWord (.rdx n))) :: rest →
    s.stream.shut = false → n.toNat ≤ s.stream.unread.length → n.toNat ≤ ks.length →
      ∃ k t, 1 ≤ k ∧ k ≤ n.toNat ∧ Host.Core.run Sys2Proof.core (1 + k) s = .next t ∧
        t.status = { err := .ok, busy := false, done := true } ∧ t.dout = s.stream.unread.take n.toNat ∧
        t.res = { Results.zero with len := BitVec.ofNat 32 n.toNat } ∧
        t.stream = { unread := s.stream.unread.drop n.toNat, shut := false }

/-- R180, R181: a chunk that leaves bytes missing is appended whole, and nothing else changes. -/
def Obligations.PartialChunkIsAppended : Prop :=
  ∀ (bytes : List Byte) (s : State), exactPhase s.phase = true → s.rxbuf.length + bytes.length < s.need.toNat →
    takeAnswer (.chunk bytes) s = { s with rxbuf := s.rxbuf ++ bytes }

/-- R183: Closed gives Disconnected, TimedOut gives Timeout, and neither yields a partial result. -/
def Obligations.ClosedAndTimedOutAreDistinct : Prop :=
  ∀ (s : State) (es : List EnvEvent), 6 ≤ s.cfgAsciiMax.toNat → s.status.busy = true → exactPhase s.phase = true →
    s.rxbuf.length < s.need.toNat →
      (s.sched = .answer .close :: es →
          step s = .next (aborted { s with sched := es, stream := { s.stream with shut := true } } .disconnected)) ∧
        (s.sched = .answer .timeOut :: es → step s = .next (aborted { s with sched := es } .timeout))

/-- R188: RDB, in both variants: its encoding, its start, the size of its one request, and its three answers; Closed is an empty
result. -/
def Obligations.RdbReadsOnce : Prop :=
  FormatZ 0x31 .rdb ∧ (∀ s : State, exec .rdb s = .next { inFlight s 0x00000031 with phase := .rRead }) ∧
    ∀ s : State, s.phase = .rRead →
      requestSize s = s.cfgAsciiMax.toNat ∧
        (s.res = Results.zero →
          (∀ bytes, takeAnswer (.chunk bytes) s =
              ended s bytes { Results.zero with len := BitVec.ofNat 32 bytes.length }) ∧
            takeAnswer .closed s = ended s [] Results.zero) ∧
        takeAnswer .timedOut s = aborted s .timeout

/-- R55, R56, R57: stream bytes leave only as a chunk of 1 to r bytes, in order, at a read the block has pending and before Closed
was answered; Closed stays until a new connection. -/
def Obligations.StreamBytesLeaveOnlyAsChunks : Prop :=
  ∀ s t : State, step s = .next t →
    (∃ bytes es, s.sched = .connect bytes :: es ∨ s.sched = .arrive bytes :: es) ∨
      ((s.stream.shut = true → t.stream.shut = true) ∧
        (t.stream.unread = s.stream.unread ∨
          ∃ d es bytes, s.sched = .answer d :: es ∧ readEnabled s = true ∧ s.stream.shut = false ∧ 1 ≤ bytes.length ∧
            bytes.length ≤ requestSize s ∧ s.stream.unread = bytes ++ t.stream.unread))

/-! ## ASCII frame codec -/

/-- R150: ENCA: its encoding, its variant, and in ASCII its six bytes, whatever DIN holds. -/
def Obligations.EncaCompletes : Prop :=
  FormatA 0x20 .enca ∧
    ∀ addr acmd : Byte, OnlyIn .ascii (.enca addr acmd) ∧
      ∀ s : State, s.cfgVariant = .ascii →
        exec (.enca addr acmd) s = .next (completed s (commandWord (.enca addr acmd)) (asciiFrame addr acmd [])
          { Results.zero with crc := crcB [0x02, addr, acmd, 0x03], len := 6 })

/-- R152: what parse_decimal accepts, what it gives, and the value that stands for. -/
def Obligations.DecimalGrammar : Prop :=
  (∀ (p : List Byte) (neg : Bool) (mant scale : Nat),
      parseDecimal p = some { neg := neg, mant := mant, scale := scale } ↔
        ∃ ip fp : List Byte, AllDigits ip ∧ AllDigits fp ∧ 1 ≤ ip.length + fp.length ∧
          ((fp = [] ∧ p = (if neg then [0x2D] else []) ++ ip) ∨
            p = (if neg then [0x2D] else []) ++ ip ++ [0x2E] ++ fp) ∧
          mant = digitsValue (ip ++ fp) ∧ scale = fp.length) ∧
    ∀ r : Results, r.decimal = (-1 : Rat) ^ r.vneg.toNat * r.vmant / 10 ^ r.vscale

/-- R154, R156: DECAB: its encoding, its variant, and in ASCII the length, CRC, framing and payload checks, in that order, and the
result. -/
def Obligations.DecabCompletes : Prop :=
  FormatZ 0x22 .decab ∧ OnlyIn .ascii .decab ∧ ∀ s : State, s.cfgVariant = .ascii →
    exec .decab s =
      .next (
        let n := s.din.length
        let c := crcB (s.din.take (n - 2))
        let p := (s.din.drop 3).take (n - 6)
        if n < 6 then failed s 0x00000022 .truncated 0
        else if c.toNat ≠ pairLE (s.din.getD (n - 2) 0) (s.din.getD (n - 1) 0) then failed s 0x00000022 .crcMismatch 0
        else if s.din.getD 0 0 ≠ 0x02 ∨ s.din.getD (n - 3) 0 ≠ 0x03 then failed s 0x00000022 .badFraming 0
        else
          match parseDecimal p with
          | none => failed s 0x00000022 .payloadFormat 0
          | some d =>
            completed s 0x00000022 p
              { Results.zero with
                addr := s.din.getD 1 0, cmd := s.din.getD 2 0, crc := c, vneg := d.neg, vmant := d.mant, vscale := d.scale
                len := BitVec.ofNat 32 (n - 6) })

/-- R83, R154: a correctly framed decimal payload is decoded, with its address, command and value. -/
def Obligations.AsciiFrameIsDecoded : Prop :=
  ∀ (addr acmd : Byte) (p : List Byte) (d : Decimal) (s : State), s.cfgVariant = .ascii → parseDecimal p = some d →
    s.din = asciiFrame addr acmd p →
      ∃ t, exec .decab s = .next t ∧ t.status.err = .ok ∧ t.dout = p ∧ t.res.addr = addr ∧ t.res.cmd = acmd ∧
        t.res.vneg = d.neg ∧ t.res.vmant = d.mant ∧ t.res.vscale = d.scale

/-- R160: DECA: its encoding, its variant, and in ASCII its start, the size of its one request, and its one answer, which is decoded
as DECAB decodes DIN; Closed is Truncated, TimedOut is Timeout. -/
def Obligations.DecaReadsOnceAndDecodes : Prop :=
  FormatZ 0x21 .deca ∧ OnlyIn .ascii .deca ∧
    (∀ s : State, s.cfgVariant = .ascii → exec .deca s = .next { inFlight s 0x00000021 with phase := .aRead }) ∧
    (∀ s : State, s.phase = .aRead → requestSize s = s.cfgAsciiMax.toNat) ∧
    (∀ s : State, s.phase = .aRead → s.cfgVariant = .ascii → s.res = Results.zero → s.dout = [] →
      (∀ bytes u, exec .decab { s with din := bytes } = .next u →
          (takeAnswer (.chunk bytes) s).visible = u.visible ∧
            (takeAnswer (.chunk bytes) s).status.busy = false) ∧
        takeAnswer .closed s = aborted s .truncated ∧ takeAnswer .timedOut s = aborted s .timeout)

/-! ## Weight payload -/

/-- R200: DECW: its encoding, its variant, and in BINARY its checks in order and its result. -/
def Obligations.DecwCompletes : Prop :=
  FormatZ 0x13 .decw ∧ OnlyIn .binary .decw ∧
    (∀ s : State, s.cfgVariant = .binary → s.din = [] → exec .decw s = .next (failed s 0x00000013 .truncated 0)) ∧
    (∀ (b0 : Byte) (rest : List Byte) (s : State), s.cfgVariant = .binary → s.din = b0 :: rest → b0 ≠ 0x10 →
      exec .decw s = .next (failed s 0x00000013 .unexpectedResponse b0)) ∧
    (∀ (rest : List Byte) (s : State), s.cfgVariant = .binary → s.din = 0x10 :: rest → rest.length < 6 →
      exec .decw s = .next (failed s 0x00000013 .truncated 0)) ∧
    (∀ (r0 r1 r2 r3 div stab : Byte) (more : List Byte) (s : State), s.cfgVariant = .binary →
      s.din = weightBody r0 r1 r2 r3 div stab ++ more →
      exec .decw s = .next (completed s 0x00000013 [] (weightResults r0 r1 r2 r3 div stab (7 + more.length))))

/-- R202, R203: for every division code DECW ends without an error, with RES_WEXP as the table gives it, and weight_kg =
RES_RAW / 10^RES_WEXP is raw * divisor(division_code), exactly. -/
def Obligations.WeightIsRawTimesDivisor : Prop :=
  ∀ (r0 r1 r2 r3 div stab : Byte) (s : State), s.cfgVariant = .binary → s.din = weightBody r0 r1 r2 r3 div stab →
    ∃ t, exec .decw s = .next t ∧ t.status.err = .ok ∧ t.res.div = div ∧
      t.res.wexp.toNat = (if div.toNat ≤ 4 then 4 - div.toNat else 0) ∧
      t.res.weightKg = (t.res.raw.toInt : Rat) / 10 ^ t.res.wexp.toNat ∧
      t.res.weightKg = (t.res.raw.toInt : Rat) * divisor div

/-! ## Wire command codes (log 7: run as the pseudo-operations of R86) -/

/-- R121, R86: the two request frames, header included. -/
def Obligations.RequestFrames : Prop :=
  ∀ s : State, s.cfgVariant = .binary →
    exec .pingReq s = .next (completed { s with din := [0x04] } 0x00009110
        [s.cfgHeader.hdr0, s.cfgHeader.hdr1, s.cfgHeader.hdr2, 0x02, 0x00, 0x91, 0x04, 0x04, 0x91]
        { Results.zero with crc := 0x9104, len := 9 }) ∧
      exec .weightReq s = .next (completed { s with din := [] } 0x0000A010
        [s.cfgHeader.hdr0, s.cfgHeader.hdr1, s.cfgHeader.hdr2, 0x01, 0x00, 0xA0, 0xA0, 0x00]
        { Results.zero with crc := 0x00A0, len := 8 })

/-- R86: the two responses start DECB with their code expected; WRESP leaves its copy and its DECW held on the port. -/
def Obligations.ResponsesStartDecb : Prop :=
  ∀ s : State, s.cfgVariant = .binary →
    exec .pingAck s = .next { inFlight s 0x00510111 with phase := .bHdr, need := 3, rxbuf := [] } ∧
      exec .weightResp s = .next
        { inFlight { s with port := .copyDout :: .word (.command 0x00000013) :: s.port } 0x00100111 with
          phase := .bHdr, need := 3, rxbuf := [] }

/-- R86: running a pseudo-operation's expansion, line by line, is its wire code's instruction. -/
def Obligations.PseudoOperationsAreTheirExpansions : Prop :=
  ∀ (s : State) (es : List EnvEvent), 6 ≤ s.cfgAsciiMax.toNat → s.status.busy = false → s.port = [] →
    (s.sched = AsmLine.pingreq.expand ++ es →
        Host.Core.run Sys2Proof.core 3 s = exec .pingReq { s with sched := es }) ∧
      (s.sched = AsmLine.wreq.expand ++ es → Host.Core.run Sys2Proof.core 3 s = exec .weightReq { s with sched := es }) ∧
      (s.sched = AsmLine.pingack.expand ++ es → Host.Core.run Sys2Proof.core 2 s = exec .pingAck { s with sched := es }) ∧
      (s.sched = AsmLine.wresp.expand ++ es →
        Host.Core.run Sys2Proof.core 4 s = exec .weightResp { s with sched := es })

/-- R86, R82, R124, R200, R272: the wire code of a weight response, over a stream that carries its frame in any chunking, ends with
the fields of the weight in the result registers and the stream just past the frame. -/
def Obligations.WeightResponseIsRead : Prop :=
  ∀ (r0 r1 r2 r3 div stab : Byte) (after : List Byte) (ks : List Nat) (s : State), s.cfgVariant = .binary →
    TurnAt s (deliveries ks) → s.port = [.word (.wire 0x10)] →
    s.stream = { unread := frame s.cfgHeader (weightBody r0 r1 r2 r3 div stab) ++ after, shut := false } →
    14 ≤ ks.length →
      ∃ n t, Host.Core.run Sys2Proof.core n s = .next t ∧ t.port = [] ∧ t.sched = [] ∧
        t.status = { err := .ok, busy := false, done := true } ∧ t.cmdLatch = 0x00000013 ∧
        t.din = weightBody r0 r1 r2 r3 div stab ∧ t.dout = [] ∧ t.res = weightResults r0 r1 r2 r3 div stab 7 ∧
        t.stream = { unread := after, shut := false }

/-! ## The whole machine -/

/-- The invariant holds at reset. -/
def Obligations.ResetSatisfiesTheInvariant : Prop := Inv State.reset

/-- Every step keeps the invariant, from every state that has it. -/
def Obligations.StepKeepsTheInvariant : Prop :=
  ∀ s t : State, Inv s → step s = .next t → Inv t

/-- R23, R24, R25, R228: no step changes the configuration. -/
def Obligations.NoStepChangesTheConfiguration : Prop :=
  ∀ s t : State, Inv s → step s = .next t →
    t.params = s.params ∧ t.cfgVariant = s.cfgVariant ∧ t.cfgHeader = s.cfgHeader ∧ t.cfgAsciiMax = s.cfgAsciiMax

/-- R270, R59: while BUSY = 1 no command is accepted: what the port holds stays held, and CMD_LATCH and DIN_SNAP change only by
reset. -/
def Obligations.NoAcceptWhileBusy : Prop :=
  ∀ s t : State, s.status.busy = true → step s = .next t →
    (∃ more, t.port = s.port ++ more) ∧
      ((t.cmdLatch = s.cmdLatch ∧ t.dinSnap = s.dinSnap) ∨ ∃ es, s.sched = .reset :: es)

/-- R28, R60, R272: the operation in flight does not see DIN: two busy states that differ in DIN alone step to states that differ
in DIN alone. -/
def Obligations.OperationInFlightDoesNotSeeDin : Prop :=
  ∀ (s t : State) (d : List Byte), s.status.busy = true → step s = .next t →
    ∃ d', step { s with din := d } = .next { t with din := d' }

/-- The machine stops only at a DIN write that does not fit (log 11) or a wire code that is no pseudo-operation (log 17): no
instruction, no read and no reset stops it. -/
def Obligations.OnlyTheEnvironmentStopsTheMachine : Prop :=
  ∀ s : State, Inv s →
    (∃ t, step s = .next t) ∨
      (∃ bytes es, s.sched = .din bytes :: es ∧ 65542 < bytes.length ∧ step s = .fault .dinCapacity) ∨
      (∃ code rest, s.status.busy = false ∧ s.port = .word (.wire code) :: rest ∧
        code ≠ 0x91 ∧ code ≠ 0xA0 ∧ code ≠ 0x51 ∧ code ≠ 0x10 ∧ step s = .refused (.unlistedWireCode code))

/-- R281, R280: if the oracle answers every request and does not withhold bytes, the operation in flight completes, within the
65542 read steps of the longest DECB. -/
def Obligations.AnsweredOperationsComplete : Prop :=
  ∀ s : State, Inv s → s.status.busy = true → (∀ e ∈ s.sched, ∃ d, e = .answer d) → 65542 ≤ s.sched.length →
    65542 ≤ s.stream.unread.length →
      ∃ n t, n ≤ 65542 ∧ Host.Core.run Sys2Proof.core n s = .next t ∧ t.status.busy = false ∧ t.status.done = true

/-- R281, D11: each answer ends the operation or consumes at least one byte; and under weak fairness of the oracle every operation in
flight ends, whatever else the environment does meanwhile and however short its stream: it completes, or a reset abandons it
(R260). -/
def Obligations.FairOracleEndsEveryOperation : Prop :=
  (∀ s t : State, Inv s → readEnabled s = true → ReadAnswered s → step s = .next t →
      t.status.busy = false ∨ t.stream.unread.length < s.stream.unread.length) ∧
    ∀ s : State, Inv s → s.status.busy = true → WeaklyFair s →
      ∃ n t, Host.Core.run Sys2Proof.core n s = .next t ∧ t.status.busy = false ∧
        (t.status.done = true ∨
          ∃ m u es, m + 1 = n ∧ Host.Core.run Sys2Proof.core m s = .next u ∧ u.status.busy = true ∧
            u.sched = .reset :: es)
end

