-- ==== Sys2Proof/Laws/Bytes.lean ====
section
/-! SUPPORT. Little-endian fields: what is written with le16 is read with rdLe16. -/

namespace Sys2Proof.Machine

@[simp] theorem le16_length (v : Half) : (le16 v).length = 2 := rfl

@[simp] theorem headerBytes_length (h : Header) : (headerBytes h).length = 3 := rfl

/-- A 16-bit word is its two bytes, low byte first. -/
theorem half_of_bytes (v : Half) :
    (v.extractLsb' 0 8).setWidth 16 ||| ((v.extractLsb' 8 8).setWidth 16 <<< 8) = v := by
  apply BitVec.eq_of_getLsbD_eq
  intro i hi
  by_cases h : i < 8
  · simp [h, hi]
  · have h8 : i - 8 < 8 := by omega
    simp [h, hi, h8, Nat.add_sub_cancel' (Nat.le_of_not_lt h)]

/-- rd_le16 at the start of le16 v ++ rest is v. -/
@[simp] theorem rdLe16_le16_append (v : Half) (rest : List Byte) : rdLe16 (le16 v ++ rest) 0 = v := by
  simpa [rdLe16, le16, byteAt] using half_of_bytes v

@[simp] theorem rdLe16_le16 (v : Half) : rdLe16 (le16 v) 0 = v := by
  simpa using rdLe16_le16_append v []

/-- le16 of what rd_le16 reads from two bytes is those two bytes. -/
theorem le16_rdLe16 (b0 b1 : Byte) : le16 (rdLe16 [b0, b1] 0) = [b0, b1] := by
  simp only [le16, rdLe16, byteAt, List.getD_cons_zero, List.getD_cons_succ, Nat.zero_add, List.cons.injEq, and_true]
  constructor <;> apply BitVec.eq_of_getLsbD_eq <;> intro i hi
  · have h16 : i < 16 := by omega
    simp [hi, h16]
  · have h16 : 8 + i < 16 := by omega
    simp [hi, h16]

end Sys2Proof.Machine
end

