-- ==== Sys2Proof/Laws/Crc.lean ====
section
/-! SUPPORT. The two CRCs as folds over the bytes. -/

namespace Sys2Proof.Machine

@[simp] theorem crcA_nil : crcA [] = 0 := rfl

@[simp] theorem crcB_nil : crcB [] = 0xFFFF := rfl

/-- CRC-A goes on from where it stands. -/
theorem crcA_append (d e : List Byte) : crcA (d ++ e) = e.foldl crcaStep (crcA d) := by
  simp [crcA]

/-- CRC-B goes on from where it stands. -/
theorem crcB_append (d e : List Byte) : crcB (d ++ e) = e.foldl crcbStep (crcB d) := by
  simp [crcB]

theorem crcA_concat (d : List Byte) (b : Byte) : crcA (d ++ [b]) = crcaStep (crcA d) b := by
  simp [crcA]

theorem crcB_concat (d : List Byte) (b : Byte) : crcB (d ++ [b]) = crcbStep (crcB d) b := by
  simp [crcB]

end Sys2Proof.Machine
end

