-- ==== Sys2Proof/Laws/State.lean ====
section
/-! SUPPORT. One lemma per field per shared update of the state, so that no proof unfolds a record update. -/

namespace Sys2Proof.Machine

/-! ## accept -/

@[simp] theorem accept_params (cw : Word) (s : State) : (accept cw s).params = s.params := rfl
@[simp] theorem accept_cfgVariant (cw : Word) (s : State) : (accept cw s).cfgVariant = s.cfgVariant := rfl
@[simp] theorem accept_cfgHeader (cw : Word) (s : State) : (accept cw s).cfgHeader = s.cfgHeader := rfl
@[simp] theorem accept_cfgAsciiMax (cw : Word) (s : State) : (accept cw s).cfgAsciiMax = s.cfgAsciiMax := rfl
@[simp] theorem accept_status (cw : Word) (s : State) : (accept cw s).status = Status.inFlight := rfl
@[simp] theorem accept_din (cw : Word) (s : State) : (accept cw s).din = s.din := rfl
@[simp] theorem accept_dinSnap (cw : Word) (s : State) : (accept cw s).dinSnap = s.din := rfl
@[simp] theorem accept_dout (cw : Word) (s : State) : (accept cw s).dout = [] := rfl
@[simp] theorem accept_rxbuf (cw : Word) (s : State) : (accept cw s).rxbuf = s.rxbuf := rfl
@[simp] theorem accept_res (cw : Word) (s : State) : (accept cw s).res = Results.zero := rfl
@[simp] theorem accept_phase (cw : Word) (s : State) : (accept cw s).phase = s.phase := rfl
@[simp] theorem accept_need (cw : Word) (s : State) : (accept cw s).need = s.need := rfl
@[simp] theorem accept_bLenVal (cw : Word) (s : State) : (accept cw s).bLenVal = s.bLenVal := rfl
@[simp] theorem accept_hdrbuf (cw : Word) (s : State) : (accept cw s).hdrbuf = s.hdrbuf := rfl
@[simp] theorem accept_bodybuf (cw : Word) (s : State) : (accept cw s).bodybuf = s.bodybuf := rfl
@[simp] theorem accept_crcbuf (cw : Word) (s : State) : (accept cw s).crcbuf = s.crcbuf := rfl
@[simp] theorem accept_cmdLatch (cw : Word) (s : State) : (accept cw s).cmdLatch = cw := rfl
@[simp] theorem accept_port (cw : Word) (s : State) : (accept cw s).port = s.port := rfl
@[simp] theorem accept_stream (cw : Word) (s : State) : (accept cw s).stream = s.stream := rfl
@[simp] theorem accept_sched (cw : Word) (s : State) : (accept cw s).sched = s.sched := rfl

/-! ## clearSequencing -/

@[simp] theorem clearSequencing_params (s : State) : (clearSequencing s).params = s.params := rfl
@[simp] theorem clearSequencing_cfgVariant (s : State) : (clearSequencing s).cfgVariant = s.cfgVariant := rfl
@[simp] theorem clearSequencing_cfgHeader (s : State) : (clearSequencing s).cfgHeader = s.cfgHeader := rfl
@[simp] theorem clearSequencing_cfgAsciiMax (s : State) : (clearSequencing s).cfgAsciiMax = s.cfgAsciiMax := rfl
@[simp] theorem clearSequencing_status (s : State) : (clearSequencing s).status = s.status := rfl
@[simp] theorem clearSequencing_din (s : State) : (clearSequencing s).din = s.din := rfl
@[simp] theorem clearSequencing_dinSnap (s : State) : (clearSequencing s).dinSnap = s.dinSnap := rfl
@[simp] theorem clearSequencing_dout (s : State) : (clearSequencing s).dout = s.dout := rfl
@[simp] theorem clearSequencing_rxbuf (s : State) : (clearSequencing s).rxbuf = [] := rfl
@[simp] theorem clearSequencing_res (s : State) : (clearSequencing s).res = s.res := rfl
@[simp] theorem clearSequencing_phase (s : State) : (clearSequencing s).phase = .idle := rfl
@[simp] theorem clearSequencing_need (s : State) : (clearSequencing s).need = 0 := rfl
@[simp] theorem clearSequencing_bLenVal (s : State) : (clearSequencing s).bLenVal = s.bLenVal := rfl
@[simp] theorem clearSequencing_hdrbuf (s : State) : (clearSequencing s).hdrbuf = [] := rfl
@[simp] theorem clearSequencing_bodybuf (s : State) : (clearSequencing s).bodybuf = [] := rfl
@[simp] theorem clearSequencing_crcbuf (s : State) : (clearSequencing s).crcbuf = [] := rfl
@[simp] theorem clearSequencing_cmdLatch (s : State) : (clearSequencing s).cmdLatch = s.cmdLatch := rfl
@[simp] theorem clearSequencing_port (s : State) : (clearSequencing s).port = s.port := rfl
@[simp] theorem clearSequencing_stream (s : State) : (clearSequencing s).stream = s.stream := rfl
@[simp] theorem clearSequencing_sched (s : State) : (clearSequencing s).sched = s.sched := rfl

/-! ## finish -/

@[simp] theorem finish_params (s : State) : (finish s).params = s.params := rfl
@[simp] theorem finish_cfgVariant (s : State) : (finish s).cfgVariant = s.cfgVariant := rfl
@[simp] theorem finish_cfgHeader (s : State) : (finish s).cfgHeader = s.cfgHeader := rfl
@[simp] theorem finish_cfgAsciiMax (s : State) : (finish s).cfgAsciiMax = s.cfgAsciiMax := rfl
@[simp] theorem finish_status (s : State) : (finish s).status = Status.completed .ok := rfl
@[simp] theorem finish_din (s : State) : (finish s).din = s.din := rfl
@[simp] theorem finish_dinSnap (s : State) : (finish s).dinSnap = s.dinSnap := rfl
@[simp] theorem finish_dout (s : State) : (finish s).dout = s.dout := rfl
@[simp] theorem finish_rxbuf (s : State) : (finish s).rxbuf = [] := rfl
@[simp] theorem finish_res (s : State) : (finish s).res = s.res := rfl
@[simp] theorem finish_phase (s : State) : (finish s).phase = .idle := rfl
@[simp] theorem finish_need (s : State) : (finish s).need = 0 := rfl
@[simp] theorem finish_bLenVal (s : State) : (finish s).bLenVal = s.bLenVal := rfl
@[simp] theorem finish_hdrbuf (s : State) : (finish s).hdrbuf = [] := rfl
@[simp] theorem finish_bodybuf (s : State) : (finish s).bodybuf = [] := rfl
@[simp] theorem finish_crcbuf (s : State) : (finish s).crcbuf = [] := rfl
@[simp] theorem finish_cmdLatch (s : State) : (finish s).cmdLatch = s.cmdLatch := rfl
@[simp] theorem finish_port (s : State) : (finish s).port = s.port := rfl
@[simp] theorem finish_stream (s : State) : (finish s).stream = s.stream := rfl
@[simp] theorem finish_sched (s : State) : (finish s).sched = s.sched := rfl

/-! ## raise -/

@[simp] theorem raise_params (e : Err) (s : State) : (raise e s).params = s.params := rfl
@[simp] theorem raise_cfgVariant (e : Err) (s : State) : (raise e s).cfgVariant = s.cfgVariant := rfl
@[simp] theorem raise_cfgHeader (e : Err) (s : State) : (raise e s).cfgHeader = s.cfgHeader := rfl
@[simp] theorem raise_cfgAsciiMax (e : Err) (s : State) : (raise e s).cfgAsciiMax = s.cfgAsciiMax := rfl
@[simp] theorem raise_status (e : Err) (s : State) : (raise e s).status = Status.completed e := rfl
@[simp] theorem raise_din (e : Err) (s : State) : (raise e s).din = s.din := rfl
@[simp] theorem raise_dinSnap (e : Err) (s : State) : (raise e s).dinSnap = s.dinSnap := rfl
@[simp] theorem raise_dout (e : Err) (s : State) : (raise e s).dout = [] := rfl
@[simp] theorem raise_rxbuf (e : Err) (s : State) : (raise e s).rxbuf = [] := rfl
@[simp] theorem raise_res (e : Err) (s : State) :
    (raise e s).res = { Results.zero with code := if e.keepsCode then s.res.code else 0 } := rfl
@[simp] theorem raise_phase (e : Err) (s : State) : (raise e s).phase = .idle := rfl
@[simp] theorem raise_need (e : Err) (s : State) : (raise e s).need = 0 := rfl
@[simp] theorem raise_bLenVal (e : Err) (s : State) : (raise e s).bLenVal = s.bLenVal := rfl
@[simp] theorem raise_hdrbuf (e : Err) (s : State) : (raise e s).hdrbuf = [] := rfl
@[simp] theorem raise_bodybuf (e : Err) (s : State) : (raise e s).bodybuf = [] := rfl
@[simp] theorem raise_crcbuf (e : Err) (s : State) : (raise e s).crcbuf = [] := rfl
@[simp] theorem raise_cmdLatch (e : Err) (s : State) : (raise e s).cmdLatch = s.cmdLatch := rfl
@[simp] theorem raise_port (e : Err) (s : State) : (raise e s).port = s.port := rfl
@[simp] theorem raise_stream (e : Err) (s : State) : (raise e s).stream = s.stream := rfl
@[simp] theorem raise_sched (e : Err) (s : State) : (raise e s).sched = s.sched := rfl

/-! ## beginRead -/

@[simp] theorem beginRead_params (p : Phase) (n : Half) (s : State) : (beginRead p n s).params = s.params := rfl
@[simp] theorem beginRead_cfgVariant (p : Phase) (n : Half) (s : State) : (beginRead p n s).cfgVariant = s.cfgVariant := rfl
@[simp] theorem beginRead_cfgHeader (p : Phase) (n : Half) (s : State) : (beginRead p n s).cfgHeader = s.cfgHeader := rfl
@[simp] theorem beginRead_cfgAsciiMax (p : Phase) (n : Half) (s : State) : (beginRead p n s).cfgAsciiMax = s.cfgAsciiMax := rfl
@[simp] theorem beginRead_status (p : Phase) (n : Half) (s : State) : (beginRead p n s).status = s.status := rfl
@[simp] theorem beginRead_din (p : Phase) (n : Half) (s : State) : (beginRead p n s).din = s.din := rfl
@[simp] theorem beginRead_dinSnap (p : Phase) (n : Half) (s : State) : (beginRead p n s).dinSnap = s.dinSnap := rfl
@[simp] theorem beginRead_dout (p : Phase) (n : Half) (s : State) : (beginRead p n s).dout = s.dout := rfl
@[simp] theorem beginRead_rxbuf (p : Phase) (n : Half) (s : State) : (beginRead p n s).rxbuf = [] := rfl
@[simp] theorem beginRead_res (p : Phase) (n : Half) (s : State) : (beginRead p n s).res = s.res := rfl
@[simp] theorem beginRead_phase (p : Phase) (n : Half) (s : State) : (beginRead p n s).phase = p := rfl
@[simp] theorem beginRead_need (p : Phase) (n : Half) (s : State) : (beginRead p n s).need = n := rfl
@[simp] theorem beginRead_bLenVal (p : Phase) (n : Half) (s : State) : (beginRead p n s).bLenVal = s.bLenVal := rfl
@[simp] theorem beginRead_hdrbuf (p : Phase) (n : Half) (s : State) : (beginRead p n s).hdrbuf = s.hdrbuf := rfl
@[simp] theorem beginRead_bodybuf (p : Phase) (n : Half) (s : State) : (beginRead p n s).bodybuf = s.bodybuf := rfl
@[simp] theorem beginRead_crcbuf (p : Phase) (n : Half) (s : State) : (beginRead p n s).crcbuf = s.crcbuf := rfl
@[simp] theorem beginRead_cmdLatch (p : Phase) (n : Half) (s : State) : (beginRead p n s).cmdLatch = s.cmdLatch := rfl
@[simp] theorem beginRead_port (p : Phase) (n : Half) (s : State) : (beginRead p n s).port = s.port := rfl
@[simp] theorem beginRead_stream (p : Phase) (n : Half) (s : State) : (beginRead p n s).stream = s.stream := rfl
@[simp] theorem beginRead_sched (p : Phase) (n : Half) (s : State) : (beginRead p n s).sched = s.sched := rfl

/-! ## STATUS -/

@[simp] theorem inFlight_busy : Status.inFlight.busy = true := rfl
@[simp] theorem inFlight_done : Status.inFlight.done = false := rfl
@[simp] theorem inFlight_err : Status.inFlight.err = .ok := rfl
@[simp] theorem completed_busy (e : Err) : (Status.completed e).busy = false := rfl
@[simp] theorem completed_done (e : Err) : (Status.completed e).done = true := rfl
@[simp] theorem completed_err (e : Err) : (Status.completed e).err = e := rfl

/-! ## raiseWithCode -/

/-- Of the two errors that keep RES_CODE, raiseWithCode leaves exactly the code given. -/
theorem raiseWithCode_res (e : Err) (c : Byte) (s : State) (h : e.keepsCode = true) :
    (raiseWithCode e c s).res = { Results.zero with code := c } := by
  simp [raiseWithCode, h]

/-- Apart from RES_CODE, raiseWithCode is raise. -/
theorem raiseWithCode_eq (e : Err) (c : Byte) (s : State) (h : e.keepsCode = true) :
    raiseWithCode e c s = { raise e s with res := { Results.zero with code := c } } := by
  simp [raiseWithCode, raise, h, clearSequencing]

end Sys2Proof.Machine
end

