-- ==== Sys2Proof/Laws/Ops.lean ====
section
/-! SUPPORT. What each shared operation can do, said once. -/

namespace Sys2Proof.Machine

/-- The permitted configuration runs the operation. -/
theorem gate_of_eq {v : Variant} {op : State → State} {s : State} (h : s.cfgVariant = v) : gate v op s = op s := by
  simp [gate, h]

/-- The other configuration ends with WrongVariant. -/
theorem gate_of_ne {v : Variant} {op : State → State} {s : State} (h : s.cfgVariant ≠ v) :
    gate v op s = raise .wrongVariant s := by
  simp [gate, h]

/-- DIN takes exactly the contents that fit. -/
theorem loadDin_next_iff {bytes : List Byte} {s t : State} :
    loadDin bytes s = .next t ↔ bytes.length ≤ Config.pDinMax ∧ t = { s with din := bytes } := by
  unfold loadDin
  split
  · next h => exact ⟨fun e => ⟨h, (Host.Outcome.next.inj e).symm⟩, fun e => by rw [e.2]⟩
  · next h => exact ⟨fun e => (by cases e), fun e => absurd e.1 h⟩

/-- Reset goes on exactly from a legal configuration, to the values of R261. -/
theorem applyReset_next_iff {s t : State} :
    applyReset s = .next t ↔
      asciiMaxLegal s.params.asciiMax = true ∧ t = State.resetWith s.params s.port s.stream s.sched := by
  unfold applyReset
  split
  · next h => exact ⟨fun e => ⟨h, (Host.Outcome.next.inj e).symm⟩, fun e => by rw [e.2]⟩
  · next h => exact ⟨fun e => (by cases e), fun e => absurd e.1 h⟩

/-! What an illegal word leaves -/

@[simp] theorem acceptIllegal_status (cw : Word) (s : State) : (acceptIllegal cw s).status = Status.completed .illegalOp := rfl

@[simp] theorem acceptIllegal_dout (cw : Word) (s : State) : (acceptIllegal cw s).dout = [] := rfl

@[simp] theorem acceptIllegal_res (cw : Word) (s : State) : (acceptIllegal cw s).res = Results.zero := rfl

@[simp] theorem acceptIllegal_cmdLatch (cw : Word) (s : State) : (acceptIllegal cw s).cmdLatch = cw := rfl

@[simp] theorem acceptIllegal_dinSnap (cw : Word) (s : State) : (acceptIllegal cw s).dinSnap = s.din := rfl

@[simp] theorem acceptIllegal_params (cw : Word) (s : State) : (acceptIllegal cw s).params = s.params := rfl

@[simp] theorem acceptIllegal_cfgVariant (cw : Word) (s : State) : (acceptIllegal cw s).cfgVariant = s.cfgVariant := rfl

@[simp] theorem acceptIllegal_cfgHeader (cw : Word) (s : State) : (acceptIllegal cw s).cfgHeader = s.cfgHeader := rfl

@[simp] theorem acceptIllegal_cfgAsciiMax (cw : Word) (s : State) : (acceptIllegal cw s).cfgAsciiMax = s.cfgAsciiMax := rfl

@[simp] theorem acceptIllegal_din (cw : Word) (s : State) : (acceptIllegal cw s).din = s.din := rfl

@[simp] theorem acceptIllegal_bLenVal (cw : Word) (s : State) : (acceptIllegal cw s).bLenVal = s.bLenVal := rfl

@[simp] theorem acceptIllegal_port (cw : Word) (s : State) : (acceptIllegal cw s).port = s.port := rfl

@[simp] theorem acceptIllegal_stream (cw : Word) (s : State) : (acceptIllegal cw s).stream = s.stream := rfl

@[simp] theorem acceptIllegal_sched (cw : Word) (s : State) : (acceptIllegal cw s).sched = s.sched := rfl

/-- read_exact_din delivers the next n bytes exactly where there are n. -/
theorem readExactDin_some_iff {n : Nat} {d a b : List Byte} :
    readExactDin n d = some (a, b) ↔ d = a ++ b ∧ a.length = n := by
  unfold readExactDin
  split
  · constructor
    · simp
    · rintro ⟨rfl, rfl⟩
      simp at *
  · constructor
    · intro h
      simp only [Option.some.injEq, Prod.mk.injEq] at h
      obtain ⟨rfl, rfl⟩ := h
      exact ⟨(List.take_append_drop n d).symm, by simp; omega⟩
    · rintro ⟨rfl, rfl⟩
      simp

/-- Everything the oracle can answer (R55, R56). -/
theorem oracle_cases {r : Nat} {d : Draw} {st st' : Stream} {ans : Answer} (hr : 1 ≤ r)
    (h : oracle r d st = some (ans, st')) :
    (ans = .timedOut ∧ st' = st) ∨ (ans = .closed ∧ st' = { st with shut := true }) ∨
      (∃ bytes, ans = .chunk bytes ∧ 1 ≤ bytes.length ∧ bytes.length ≤ r ∧ st.shut = false ∧
        st.unread = bytes ++ st'.unread ∧ st'.shut = false) := by
  obtain ⟨unread, shut⟩ := st
  cases d with
  | timeOut => simp [oracle] at h; exact .inl ⟨h.1.symm, h.2.symm⟩
  | close => simp [oracle] at h; exact .inr (.inl ⟨h.1.symm, h.2.symm⟩)
  | deliver k =>
    cases shut with
    | true => simp [oracle] at h; exact .inr (.inl ⟨h.1.symm, by simp [h.2.symm]⟩)
    | false =>
      cases unread with
      | nil => simp [oracle] at h
      | cons b rest =>
        simp only [oracle, Bool.false_eq_true, if_false, Option.some.injEq, Prod.mk.injEq] at h
        obtain ⟨rfl, rfl⟩ := h
        refine .inr (.inr ⟨_, rfl, ?_, ?_, rfl, (List.take_append_drop _ _).symm, rfl⟩)
        · simp [chunkSize]
        · simp only [List.length_take, chunkSize]
          omega

/-- What one answer does to a read_exact in progress (R180). -/
theorem exactAnswer_cases {k : List Byte → State → State} {ans : Answer} {s t : State} (h : exactAnswer k ans s = t) :
    (∃ bytes, ans = .chunk bytes ∧ (s.rxbuf ++ bytes).length < s.need.toNat ∧
        t = { s with rxbuf := s.rxbuf ++ bytes }) ∨
      (∃ bytes, ans = .chunk bytes ∧ s.need.toNat ≤ (s.rxbuf ++ bytes).length ∧
        t = k (s.rxbuf ++ bytes) { s with rxbuf := s.rxbuf ++ bytes }) ∨
      (ans = .closed ∧ t = raise .disconnected s) ∨ (ans = .timedOut ∧ t = raise .timeout s) := by
  subst h
  cases ans with
  | chunk bytes =>
    by_cases hl : (s.rxbuf ++ bytes).length < s.need.toNat
    · exact .inl ⟨bytes, rfl, hl, by simp only [exactAnswer, if_pos hl]⟩
    · exact .inr (.inl ⟨bytes, rfl, Nat.le_of_not_lt hl, by simp only [exactAnswer, if_neg hl]⟩)
  | closed => exact .inr (.inr (.inl ⟨rfl, rfl⟩))
  | timedOut => exact .inr (.inr (.inr ⟨rfl, rfl⟩))

end Sys2Proof.Machine
end

