-- ==== Sys2Proof/Laws/Frame.lean ====
section
/-! SUPPORT. The frame of every operation, said once: an operation after its accept, and every answer to a read, leaves alone
what R221 and R228 say no operation writes. -/

namespace Sys2Proof.Machine

/-- The fields no operation writes once it is accepted: parameters, configuration, DIN, the latches of accept, and the
environment (R23 to R25, R28, R40, R57, R221, R228). -/
structure SameFrame (s t : State) : Prop where
  params : t.params = s.params
  cfgVariant : t.cfgVariant = s.cfgVariant
  cfgHeader : t.cfgHeader = s.cfgHeader
  cfgAsciiMax : t.cfgAsciiMax = s.cfgAsciiMax
  din : t.din = s.din
  dinSnap : t.dinSnap = s.dinSnap
  cmdLatch : t.cmdLatch = s.cmdLatch
  port : t.port = s.port
  stream : t.stream = s.stream
  sched : t.sched = s.sched

theorem SameFrame.refl (s : State) : SameFrame s s := ⟨rfl, rfl, rfl, rfl, rfl, rfl, rfl, rfl, rfl, rfl⟩

theorem finish_frame (s : State) : SameFrame s (finish s) := ⟨rfl, rfl, rfl, rfl, rfl, rfl, rfl, rfl, rfl, rfl⟩

theorem raise_frame (e : Err) (s : State) : SameFrame s (raise e s) := ⟨rfl, rfl, rfl, rfl, rfl, rfl, rfl, rfl, rfl, rfl⟩

theorem raiseWithCode_frame (e : Err) (c : Byte) (s : State) : SameFrame s (raiseWithCode e c s) :=
  ⟨rfl, rfl, rfl, rfl, rfl, rfl, rfl, rfl, rfl, rfl⟩

theorem beginRead_frame (p : Phase) (n : Half) (s : State) : SameFrame s (beginRead p n s) :=
  ⟨rfl, rfl, rfl, rfl, rfl, rfl, rfl, rfl, rfl, rfl⟩

theorem deliverBody_frame (body : List Byte) (s : State) : SameFrame s (deliverBody body s) :=
  ⟨rfl, rfl, rfl, rfl, rfl, rfl, rfl, rfl, rfl, rfl⟩

theorem rdxDone_frame (bytes : List Byte) (s : State) : SameFrame s (rdxDone bytes s) :=
  ⟨rfl, rfl, rfl, rfl, rfl, rfl, rfl, rfl, rfl, rfl⟩

theorem gate_frame {v : Variant} {op : State → State} (h : ∀ u, SameFrame u (op u)) (s : State) :
    SameFrame s (gate v op s) := by
  unfold gate
  split
  · exact h s
  · exact raise_frame _ s

theorem encodeBinary_frame (cmd : Byte) (s : State) : SameFrame s (encodeBinary cmd s) := by
  unfold encodeBinary
  split
  · exact raise_frame _ s
  · exact ⟨rfl, rfl, rfl, rfl, rfl, rfl, rfl, rfl, rfl, rfl⟩

theorem checkBinary_frame (ev : Bool) (exp : Byte) (body : List Byte) (rx : Half) (s : State) :
    SameFrame s (checkBinary ev exp body rx s) := by
  unfold checkBinary
  repeat' split
  all_goals
    first
    | exact raise_frame _ s
    | exact raiseWithCode_frame _ _ s
    | exact deliverBody_frame _ s

theorem decodeBinaryDin_frame (ev : Bool) (exp : Byte) (s : State) : SameFrame s (decodeBinaryDin ev exp s) := by
  unfold decodeBinaryDin
  repeat' split
  all_goals
    first
    | exact raise_frame _ s
    | exact checkBinary_frame _ _ _ _ s

theorem decodeAscii_frame (buf : List Byte) (s : State) : SameFrame s (decodeAscii buf s) := by
  simp only [decodeAscii]
  repeat' split
  all_goals
    first
    | exact raise_frame _ s
    | exact ⟨rfl, rfl, rfl, rfl, rfl, rfl, rfl, rfl, rfl, rfl⟩

theorem decodeWeight_frame (s : State) : SameFrame s (decodeWeight s) := by
  simp only [decodeWeight]
  repeat' split
  all_goals
    first
    | exact raise_frame _ s
    | exact raiseWithCode_frame _ _ s
    | exact ⟨rfl, rfl, rfl, rfl, rfl, rfl, rfl, rfl, rfl, rfl⟩

/-- The continuations of DECB keep the frame. -/
theorem decbAfterHeader_frame (hdr : List Byte) (s : State) : SameFrame s (decbAfterHeader hdr s) := by
  simp only [decbAfterHeader]
  split <;> exact ⟨rfl, rfl, rfl, rfl, rfl, rfl, rfl, rfl, rfl, rfl⟩

theorem decbAfterLength_frame (lb : List Byte) (s : State) : SameFrame s (decbAfterLength lb s) := by
  simp only [decbAfterLength]
  split <;> exact ⟨rfl, rfl, rfl, rfl, rfl, rfl, rfl, rfl, rfl, rfl⟩

theorem decbAfterBody_frame (body : List Byte) (s : State) : SameFrame s (decbAfterBody body s) :=
  ⟨rfl, rfl, rfl, rfl, rfl, rfl, rfl, rfl, rfl, rfl⟩

theorem decbAfterCrc_frame (cb : List Byte) (s : State) : SameFrame s (decbAfterCrc cb s) := by
  obtain ⟨h1, h2, h3, h4, h5, h6, h7, h8, h9, h10⟩ :=
    checkBinary_frame (evField s.cmdLatch) (byteField2 s.cmdLatch) s.bodybuf (rdLe16 cb 0) { s with crcbuf := cb }
  exact ⟨h1, h2, h3, h4, h5, h6, h7, h8, h9, h10⟩

theorem exactAnswer_frame {k : List Byte → State → State} (hk : ∀ b u, SameFrame u (k b u)) (ans : Answer) (s : State) :
    SameFrame s (exactAnswer k ans s) := by
  rcases exactAnswer_cases (k := k) (ans := ans) (s := s) rfl with ⟨b, -, -, h⟩ | ⟨b, -, -, h⟩ | ⟨-, h⟩ | ⟨-, h⟩
  · rw [h]; exact ⟨rfl, rfl, rfl, rfl, rfl, rfl, rfl, rfl, rfl, rfl⟩
  · rw [h]
    obtain ⟨h1, h2, h3, h4, h5, h6, h7, h8, h9, h10⟩ := hk (s.rxbuf ++ b) { s with rxbuf := s.rxbuf ++ b }
    exact ⟨h1, h2, h3, h4, h5, h6, h7, h8, h9, h10⟩
  · rw [h]; exact raise_frame _ s
  · rw [h]; exact raise_frame _ s

/-- Whatever answer comes to whatever operation is in flight, the frame stays. -/
theorem takeAnswer_frame (ans : Answer) (s : State) : SameFrame s (takeAnswer ans s) := by
  unfold takeAnswer
  split
  · exact SameFrame.refl s
  · exact exactAnswer_frame decbAfterHeader_frame ans s
  · exact exactAnswer_frame decbAfterLength_frame ans s
  · exact exactAnswer_frame decbAfterBody_frame ans s
  · exact exactAnswer_frame decbAfterCrc_frame ans s
  · exact exactAnswer_frame rdxDone_frame ans s
  · cases ans
    · exact decodeAscii_frame _ s
    · exact decodeAscii_frame [] s
    · exact raise_frame _ s
  · cases ans
    · exact rdxDone_frame _ s
    · exact rdxDone_frame [] s
    · exact raise_frame _ s

end Sys2Proof.Machine
end

