-- ==== Sys2Proof/Laws/PerInstr.lean ====
section
/-! SUPPORT. What is said of every instruction, constructor by constructor: its word agrees with its row of
spec/opcode_table.json (match under mask, and the row's width). -/

namespace Sys2Proof.Laws.TableRow

/-- The row's match and mask, as spec/opcode_table.json prints them. -/
def row : Instr → Nat × Nat
  | .crca => (0x00000001, 0xFFFFFFFF)
  | .crcb => (0x00000002, 0xFFFFFFFF)
  | .encb _ => (0x00000010, 0xFFFF00FF)
  | .decb _ _ => (0x00000011, 0xFF00FEFF)
  | .decbb _ _ => (0x00000012, 0xFF00FEFF)
  | .decw => (0x00000013, 0xFFFFFFFF)
  | .enca _ _ => (0x00000020, 0xFF0000FF)
  | .deca => (0x00000021, 0xFFFFFFFF)
  | .decab => (0x00000022, 0xFFFFFFFF)
  | .rdx _ => (0x00000030, 0xFF0000FF)
  | .rdb => (0x00000031, 0xFFFFFFFF)
  | .pingReq => (0x91, 0xFF)
  | .weightReq => (0xA0, 0xFF)
  | .pingAck => (0x51, 0xFF)
  | .weightResp => (0x10, 0xFF)

/-- The instruction's word has the row's fixed bits. -/
def Statement (i : Instr) : Prop :=
  match encode i with
  | .command cw => cw &&& BitVec.ofNat 32 (row i).2 = BitVec.ofNat 32 (row i).1
  | .wire code => code &&& BitVec.ofNat 8 (row i).2 = BitVec.ofNat 8 (row i).1

theorem crca : Statement .crca := rfl
theorem crcb : Statement .crcb := rfl
theorem decw : Statement .decw := rfl
theorem deca : Statement .deca := rfl
theorem decab : Statement .decab := rfl
theorem rdb : Statement .rdb := rfl
theorem pingReq : Statement .pingReq := rfl
theorem weightReq : Statement .weightReq := rfl
theorem pingAck : Statement .pingAck := rfl
theorem weightResp : Statement .weightResp := rfl

/-! The rows with fields: every field lies outside the row's mask. -/

theorem encb (cmd : Byte) : Statement (.encb cmd) := by
  apply BitVec.eq_of_getLsbD_eq
  intro i hi
  simp only [row, encodeB]
  interval_cases i <;> simp

theorem decb (ev : Bool) (exp : Byte) : Statement (.decb ev exp) := by
  apply BitVec.eq_of_getLsbD_eq
  intro i hi
  simp only [row, encodeE]
  cases ev <;> interval_cases i <;> simp

theorem decbb (ev : Bool) (exp : Byte) : Statement (.decbb ev exp) := by
  apply BitVec.eq_of_getLsbD_eq
  intro i hi
  simp only [row, encodeE]
  cases ev <;> interval_cases i <;> simp

theorem enca (addr acmd : Byte) : Statement (.enca addr acmd) := by
  apply BitVec.eq_of_getLsbD_eq
  intro i hi
  simp only [row, encodeA]
  interval_cases i <;> simp

theorem rdx (n : Half) : Statement (.rdx n) := by
  apply BitVec.eq_of_getLsbD_eq
  intro i hi
  simp only [row, encodeN]
  interval_cases i <;> simp

end Sys2Proof.Laws.TableRow
end

