-- ==== Sys2Proof/Laws/Run.lean ====
section
/-! SUPPORT. Runs of the machine: how they are put together. -/

namespace Sys2Proof.Machine

/-- A run of one step. -/
theorem run_one {s t : State} (h : step s = .next t) : Host.Core.run Sys2Proof.core 1 s = .next t := by
  simp only [Host.Core.run, Sys2Proof.core, h]

/-- A run that goes on from where a run ended. -/
theorem run_add {a : Nat} (b : Nat) {s t : State} (h : Host.Core.run Sys2Proof.core a s = .next t) :
    Host.Core.run Sys2Proof.core (a + b) s = Host.Core.run Sys2Proof.core b t := by
  induction a generalizing s with
  | zero => simp only [Host.Core.run] at h; cases h; rw [Nat.zero_add]
  | succ n ih =>
    rw [Nat.add_right_comm]
    simp only [Host.Core.run] at h ⊢
    split at h
    · exact ih h
    · cases h
    · cases h

/-- A state that steps to itself stays. -/
theorem run_of_step_self {s : State} (h : step s = .next s) : ∀ k, Host.Core.run Sys2Proof.core k s = .next s
  | 0 => rfl
  | k + 1 => by
    rw [Nat.add_comm, run_add k (run_one h)]
    exact run_of_step_self h k

end Sys2Proof.Machine
end

