-- ==== Sys2Proof/Laws/Step.lean ====
section
/-! SUPPORT. What one step can do: the inversion of step over who moves. -/

namespace Sys2Proof.Machine

/-- What the block's turn can do. -/
theorem blockStep_cases {s t : State} (h : blockStep s = .next t) :
    (t = s ∧ (s.status.busy = true ∨ s.port = [])) ∨
      (∃ a rest, s.status.busy = false ∧ s.port = a :: rest ∧ runAction a { s with port := rest } = .next t) := by
  unfold blockStep at h
  split at h
  · next a rest hb hp => exact .inr ⟨a, rest, hb, hp, h⟩
  · next hb hp => exact .inl ⟨(Host.Outcome.next.inj h).symm, .inr hp⟩
  · next hb => exact .inl ⟨(Host.Outcome.next.inj h).symm, .inl hb⟩

/-- A word that decodes is run by its meaning. -/
theorem runWord_of_ok {w : PortWord} {i : Instr} {s : State} (h : decode w = .ok i) : runWord w s = exec i s := by
  unfold runWord
  split <;> simp_all

/-- A command word that decodes to nothing is accepted and ends with IllegalOp. -/
theorem runWord_of_illegal {cw : Word} {r : DecodeReject} {s : State} (h : decodeCommand cw = .error r) :
    runWord (.command cw) s = .next (acceptIllegal cw s) := by
  unfold runWord
  split <;> simp_all [decode]

/-- A wire code that is no pseudo-operation is refused. -/
theorem runWord_of_unlisted {code : Byte} {r : DecodeReject} {s : State} (h : decodeWire code = .error r) :
    runWord (.wire code) s = .refused (.unlistedWireCode code) := by
  unfold runWord
  split <;> simp_all [decode]

/-- The legal bounds of R25, in numbers. -/
theorem asciiMaxLegal_iff (n : Half) : asciiMaxLegal n = true ↔ 6 ≤ n.toNat := by
  simp [asciiMaxLegal, Config.asciiMaxLeast, BitVec.ule]

/-- What running an action of the port can do, on any outcome that is a next state. -/
theorem runAction_cases {a : PortAction} {s t : State} (h : runAction a s = .next t) :
    (a = .copyDout ∧ s.dout.length ≤ Config.pDinMax ∧ t = { s with din := s.dout }) ∨
      (∃ w i, a = .word w ∧ decode w = .ok i ∧ exec i s = .next t) ∨
      (∃ cw r, a = .word (.command cw) ∧ decodeCommand cw = .error r ∧ t = acceptIllegal cw s) := by
  cases a with
  | copyDout =>
    obtain ⟨hl, ht⟩ := loadDin_next_iff.mp h
    exact .inl ⟨rfl, hl, ht⟩
  | word w =>
    simp only [runAction, runWord] at h
    split at h
    · next i hd => exact .inr (.inl ⟨_, i, rfl, hd, h⟩)
    · next cw r hd => exact .inr (.inr ⟨cw, r, rfl, hd, (Host.Outcome.next.inj h).symm⟩)
    · cases h

/-- Every step that goes on is the block's turn or one move of the environment, from a legal configuration. -/
theorem step_cases {s t : State} (h : step s = .next t) :
    asciiMaxLegal s.cfgAsciiMax = true ∧
      ((s.sched = [] ∧ blockStep s = .next t) ∨
        (∃ e rest, s.sched = e :: rest ∧ envMove e { s with sched := rest } = .next t)) := by
  unfold step at h
  split at h
  · next hc =>
    refine ⟨hc, ?_⟩
    split at h
    · next hs => exact .inl ⟨hs, h⟩
    · next e rest hs => exact .inr ⟨e, rest, hs, h⟩
  · cases h

/-- Everything a move of the environment can do when it goes on. -/
theorem envMove_cases {e : EnvEvent} {s t : State} (h : envMove e s = .next t) :
    (e = .blockTurn ∧ blockStep s = .next t) ∨
      (∃ bytes, e = .din bytes ∧ bytes.length ≤ Config.pDinMax ∧ t = { s with din := bytes }) ∨
      (∃ a, e = .offer a ∧ t = { s with port := s.port ++ [a] }) ∨
      (∃ d, e = .answer d ∧ t = readStep d s) ∨
      (∃ bytes, e = .connect bytes ∧ t = { s with stream := { unread := bytes, shut := false } }) ∨
      (∃ bytes, e = .arrive bytes ∧
        t = { s with stream := { s.stream with unread := s.stream.unread ++ bytes } }) ∨
      (e = .reset ∧ asciiMaxLegal s.params.asciiMax = true ∧
        t = State.resetWith s.params s.port s.stream s.sched) := by
  cases e with
  | blockTurn => exact .inl ⟨rfl, h⟩
  | din bytes =>
    obtain ⟨hl, ht⟩ := loadDin_next_iff.mp h
    exact .inr (.inl ⟨bytes, rfl, hl, ht⟩)
  | offer a => exact .inr (.inr (.inl ⟨a, rfl, (Host.Outcome.next.inj h).symm⟩))
  | answer d => exact .inr (.inr (.inr (.inl ⟨d, rfl, (Host.Outcome.next.inj h).symm⟩)))
  | connect bytes => exact .inr (.inr (.inr (.inr (.inl ⟨bytes, rfl, (Host.Outcome.next.inj h).symm⟩))))
  | arrive bytes => exact .inr (.inr (.inr (.inr (.inr (.inl ⟨bytes, rfl, (Host.Outcome.next.inj h).symm⟩)))))
  | reset => exact .inr (.inr (.inr (.inr (.inr (.inr ⟨rfl, applyReset_next_iff.mp h⟩)))))

/-- A read step does nothing, or it hands one answer of the oracle to the operation in flight (R181). -/
theorem readStep_cases (d : Draw) (s : State) :
    readStep d s = s ∨
      (∃ ans st, readEnabled s = true ∧ oracle (requestSize s) d s.stream = some (ans, st) ∧
        readStep d s = takeAnswer ans { s with stream := st }) := by
  unfold readStep
  split
  · next hr =>
    split
    · exact .inl rfl
    · next ans st ho => exact .inr ⟨ans, st, hr, ho, rfl⟩
  · exact .inl rfl

/-- An enabled read asks for at least one byte, from a legal configuration (R55). -/
theorem requestSize_pos {s : State} (hc : asciiMaxLegal s.cfgAsciiMax = true) (h : readEnabled s = true) :
    1 ≤ requestSize s := by
  have ha := (asciiMaxLegal_iff _).mp hc
  unfold readEnabled at h
  unfold requestSize
  cases hp : s.phase <;> simp_all <;> omega

end Sys2Proof.Machine
end

