-- ==== Sys2Proof/Tests/Slice0.lean ====
section
/-! SUPPORT. The model's own tests, each on small fixed data: smoke tests of well-formedness, the spec's encodings word by word,
vectors of spec/95_test_vectors.md (named V-… in the comments), and a witness for the hypotheses of each statement. -/

namespace Sys2Proof.Tests

open Sys2Proof.Machine Sys2Proof.Expected

/-! ## Small states: the test parameters of 95_test_vectors.md (header A5 5A C3, bound 1024) -/

/-- The test parameters. -/
def testParams (v : Variant) : Params := { variant := v, header := { hdr0 := 0xA5, hdr1 := 0x5A, hdr2 := 0xC3 }, asciiMax := 1024 }

/-- After reset in the BINARY configuration. -/
def bin : State := State.resetWith (testParams .binary) [] { unread := [], shut := false } []

/-- After reset in the ASCII configuration. -/
def asc : State := State.resetWith (testParams .ascii) [] { unread := [], shut := false } []

/-- What an outcome shows: ERR, DOUT, RES_*; none where the machine stopped. -/
def shown (o : Host.Outcome State Fault Refusal) : Option (Err × List Byte × Results) :=
  match o with
  | .next t => some (t.status.err, t.dout, t.res)
  | .fault _ => none
  | .refused _ => none

/-- PHASE, NEED and STATUS after an outcome. -/
def pending (o : Host.Outcome State Fault Refusal) : Option (Phase × Half × Word) :=
  match o with
  | .next t => some (t.phase, t.need, t.status.word)
  | .fault _ => none
  | .refused _ => none

/-! ## WellFormed: ill-formed terms the check refuses (R71: EXP must be 0 when EV = 0) -/

theorem test_decb_illformed : (Instr.decb false 0x10).wellFormed = false := by decide
theorem test_decbb_illformed : (Instr.decbb false 0x01).wellFormed = false := by decide
theorem test_decb_wellformed : (Instr.decb true 0x00).wellFormed = true := by decide

/-! ## Decode: one word per constructor, written from the formats of R71 and the map of R73 -/

theorem test_decode_crca : decode (.command 0b00000000000000000000000000000001#32) = .ok .crca := rfl
theorem test_decode_crcb : decode (.command 0b00000000000000000000000000000010#32) = .ok .crcb := rfl
-- CMD = 0x91 in 15:8
theorem test_decode_encb : decode (.command 0b00000000000000001001000100010000#32) = .ok (.encb 0x91) := rfl
-- EXP = 0x51 in 23:16, EV in 8
theorem test_decode_decb : decode (.command 0b00000000010100010000000100010001#32) = .ok (.decb true 0x51) := rfl
theorem test_decode_decb_any : decode (.command 0b00000000000000000000000000010001#32) = .ok (.decb false 0x00) := rfl
theorem test_decode_decbb : decode (.command 0b00000000000100000000000100010010#32) = .ok (.decbb true 0x10) := rfl
theorem test_decode_decw : decode (.command 0b00000000000000000000000000010011#32) = .ok .decw := rfl
-- ACMD = 0x50 in 23:16, ADDR = 0x01 in 15:8
theorem test_decode_enca : decode (.command 0b00000000010100000000000100100000#32) = .ok (.enca 0x01 0x50) := rfl
theorem test_decode_deca : decode (.command 0b00000000000000000000000000100001#32) = .ok .deca := rfl
theorem test_decode_decab : decode (.command 0b00000000000000000000000000100010#32) = .ok .decab := rfl
-- N = 0x1234 in 23:8
theorem test_decode_rdx : decode (.command 0b00000000000100100011010000110000#32) = .ok (.rdx 0x1234) := rfl
theorem test_decode_rdb : decode (.command 0b00000000000000000000000000110001#32) = .ok .rdb := rfl
theorem test_decode_pingReq : decode (.wire 0b10010001#8) = .ok .pingReq := rfl
theorem test_decode_weightReq : decode (.wire 0b10100000#8) = .ok .weightReq := rfl
theorem test_decode_pingAck : decode (.wire 0b01010001#8) = .ok .pingAck := rfl
theorem test_decode_weightResp : decode (.wire 0b00010000#8) = .ok .weightResp := rfl
-- V-D1, V-D2, V-D3, V-D4, V-D5, V-D6, V-D7, V-D9, V-D11
theorem test_decode_V_D1 : decode (.command 0x00000000) = .error (.illegalOp 0x00) := rfl
theorem test_decode_V_D2 : decode (.command 0x00000101) = .error (.illegalOp 0x01) := rfl
theorem test_decode_V_D3 : decode (.command 0x00010011) = .error (.illegalOp 0x11) := rfl
theorem test_decode_V_D4 : decode (.command 0x00000211) = .error (.illegalOp 0x11) := rfl
theorem test_decode_V_D5 : decode (.command 0x01000111) = .error (.illegalOp 0x11) := rfl
theorem test_decode_V_D6 : decode (.command 0x00019110) = .error (.illegalOp 0x10) := rfl
theorem test_decode_V_D7 : decode (.command 0x01005020) = .error (.illegalOp 0x20) := rfl
theorem test_decode_V_D9 : decode (.command 0xFFFF0030) = .error (.illegalOp 0x30) := rfl
theorem test_decode_V_D11 : decode (.command 0x000000FF) = .error (.illegalOp 0xFF) := rfl
-- the two code spaces of the opcode table, told apart by the row's width
theorem test_table_word_wire : decodeTableWord 8 0x10 = some .weightResp := rfl
theorem test_table_word_command : decodeTableWord 32 0x10 = some (.encb 0x00) := rfl

/-! ## Meanings: vectors of 95_test_vectors.md -/

-- V-C10
theorem test_crca_V_C10 :
    shown (exec .crca { bin with din := [0x31, 0x32, 0x33, 0x34, 0x35, 0x36, 0x37, 0x38, 0x39] }) =
      some (.ok, [0xEF, 0xBE], { Results.zero with crc := 0xBEEF, len := 2 }) := by decide +kernel
-- V-C9, in the ASCII variant
theorem test_crcb_V_C9 :
    shown (exec .crcb { asc with din := [0x01, 0x02, 0x03] }) =
      some (.ok, [0x61, 0x61], { Results.zero with crc := 0x6161, len := 2 }) := by decide +kernel
-- V-C17: the first value that needs the table
theorem test_crca_V_C17 : crcA [0x12, 0x34, 0x56] = 0x0625 := by decide +kernel
-- V-E5
theorem test_encb_V_E5 :
    shown (exec (.encb 0x10) { bin with din := [0x39, 0x30, 0x00, 0x00, 0x02, 0x01] }) =
      some (.ok, [0xA5, 0x5A, 0xC3, 0x07, 0x00, 0x10, 0x39, 0x30, 0x00, 0x00, 0x02, 0x01, 0x60, 0x1C],
        { Results.zero with crc := 0x1C60, len := 14 }) := by decide +kernel
-- V-D12
theorem test_encb_V_D12 : shown (exec (.encb 0x91) asc) = some (.wrongVariant, [], Results.zero) := by decide +kernel
-- V-B2
theorem test_decbb_V_B2 :
    shown (exec (.decbb true 0x10)
      { bin with din := [0xA5, 0x5A, 0xC3, 0x07, 0x00, 0x10, 0x39, 0x30, 0x00, 0x00, 0x02, 0x01, 0x60, 0x1C] }) =
      some (.ok, [0x10, 0x39, 0x30, 0x00, 0x00, 0x02, 0x01],
        { Results.zero with crc := 0x1C60, len := 7, cmd := 0x10 }) := by decide +kernel
-- V-B11
theorem test_decbb_V_B11 :
    shown (exec (.decbb true 0x10) { bin with din := [0xA5, 0x5A, 0xC3, 0x02, 0x00, 0x91, 0x04, 0x04, 0x91] }) =
      some (.unexpectedCommand, [], { Results.zero with code := 0x91 }) := by decide +kernel
-- V-B16: the accept step of DECB asks for 3 bytes
theorem test_decb_starts : pending (exec (.decb true 0x51) bin) = some (.bHdr, 3, 0x00000100) := by decide +kernel
-- V-B16, its last read step: CRC bytes 51 00 over body 51
theorem test_decb_last_read :
    shown (step
      { bin with
        status := Status.inFlight, phase := .bCrc, need := 2, bodybuf := [0x51], bLenVal := 1, hdrbuf := [0xA5, 0x5A, 0xC3]
        cmdLatch := 0x00510111, stream := { unread := [0x51, 0x00, 0xEE], shut := false }, sched := [.answer (.deliver 9)] }) =
      some (.ok, [0x51], { Results.zero with crc := 0x0051, len := 1, cmd := 0x51 }) := by decide +kernel
-- V-W4: the most negative weight, stability byte 05
theorem test_decw_V_W4 :
    shown (exec .decw { bin with din := [0x10, 0x00, 0x00, 0x00, 0x80, 0x04, 0x05] }) =
      some (.ok, [], { Results.zero with cmd := 0x10, raw := 0x80000000, div := 4, stable := true, len := 7 }) := by decide +kernel
-- V-W11
theorem test_decw_V_W11 :
    shown (exec .decw { bin with din := [0x51, 0x04] }) =
      some (.unexpectedResponse, [], { Results.zero with code := 0x51 }) := by decide +kernel
-- V-A1
theorem test_enca_V_A1 :
    shown (exec (.enca 0x01 0x50) asc) =
      some (.ok, [0x02, 0x01, 0x50, 0x03, 0x2C, 0x5D], { Results.zero with crc := 0x5D2C, len := 6 }) := by decide +kernel
-- V-A4 (V-P1)
theorem test_decab_V_A4 :
    shown (exec .decab
      { asc with din := [0x02, 0x01, 0x50, 0x31, 0x32, 0x33, 0x2E, 0x34, 0x35, 0x03, 0xE6, 0x03] }) =
      some (.ok, [0x31, 0x32, 0x33, 0x2E, 0x34, 0x35],
        { Results.zero with crc := 0x03E6, len := 6, cmd := 0x50, addr := 0x01, vmant := 12345, vscale := 2 }) := by decide +kernel
-- V-P2: a leading minus
theorem test_decab_V_P2 :
    shown (exec .decab { asc with din := [0x02, 0x01, 0x50, 0x2D, 0x37, 0x2E, 0x35, 0x03, 0x48, 0x68] }) =
      some (.ok, [0x2D, 0x37, 0x2E, 0x35],
        { Results.zero with crc := 0x6848, len := 4, cmd := 0x50, addr := 0x01, vneg := true, vmant := 75, vscale := 1 }) := by
  decide +kernel
-- V-A16: a chunk of 4 bytes of a frame; the rest stays in the stream
theorem test_deca_V_A16 :
    shown (step
      { asc with
        status := Status.inFlight, phase := .aRead, cmdLatch := 0x00000021
        stream := { unread := [0x02, 0x01, 0x50, 0x31, 0x32], shut := false }, sched := [.answer (.deliver 4)] }) =
      some (.truncated, [], Results.zero) := by decide +kernel
theorem test_deca_starts : pending (exec .deca asc) = some (.aRead, 0, 0x00000100) := by decide +kernel
-- V-T6
theorem test_rdx_V_T6 : shown (exec (.rdx 0) asc) = some (.ok, [], Results.zero) := by decide +kernel
-- V-T1: the last of its two read steps
theorem test_rdx_V_T1 :
    shown (step
      { bin with
        status := Status.inFlight, phase := .xRead, need := 5, rxbuf := [0xA5, 0x5A], cmdLatch := 0x00000530
        stream := { unread := [0xC3, 0x07, 0x00], shut := false }, sched := [.answer (.deliver 3)] }) =
      some (.ok, [0xA5, 0x5A, 0xC3, 0x07, 0x00], { Results.zero with len := 5 }) := by decide +kernel
-- V-T9: Closed is an empty result
theorem test_rdb_V_T9 :
    shown (step
      { bin with status := Status.inFlight, phase := .rRead, cmdLatch := 0x00000031, sched := [.answer .close] }) =
      some (.ok, [], Results.zero) := by decide +kernel
theorem test_rdb_starts : pending (exec .rdb bin) = some (.rRead, 0, 0x00000100) := by decide +kernel
-- V-E1
theorem test_pingReq_V_E1 :
    shown (exec .pingReq bin) =
      some (.ok, [0xA5, 0x5A, 0xC3, 0x02, 0x00, 0x91, 0x04, 0x04, 0x91], { Results.zero with crc := 0x9104, len := 9 }) := by
  decide +kernel
-- V-E2
theorem test_weightReq_V_E2 :
    shown (exec .weightReq { bin with din := [0x04] }) =
      some (.ok, [0xA5, 0x5A, 0xC3, 0x01, 0x00, 0xA0, 0xA0, 0x00], { Results.zero with crc := 0x00A0, len := 8 }) := by decide +kernel
theorem test_pingAck_starts : pending (exec .pingAck bin) = some (.bHdr, 3, 0x00000100) := by decide +kernel
theorem test_weightResp_starts : pending (exec .weightResp bin) = some (.bHdr, 3, 0x00000100) := by decide +kernel

/-! ## Witnesses: states and operands that meet the hypotheses of each statement -/

/-- A DECB waiting for the bytes of its body, three of seven read. -/
def midBody : State :=
  { bin with
    status := Status.inFlight, phase := .bBody, need := 7, bLenVal := 7, rxbuf := [0x10, 0x39, 0x30]
    hdrbuf := [0xA5, 0x5A, 0xC3], cmdLatch := 0x00100111 }

theorem midBody_inv : Inv midBody := by constructor <;> decide

theorem bin_inv : Inv bin := by constructor <;> decide

theorem witness_DecodeOfEncodeIsTheInstruction :
    (Instr.decb true 0xFF).wellFormed = true ∧ (Instr.decb false 0x00).wellFormed = true ∧
      (Instr.rdx 0xFFFF).wellFormed = true := by decide

theorem witness_EncodeOfDecodeIsTheWord : decode (.command 0x00FFFF30) = .ok (.rdx 0xFFFF) := rfl

theorem witness_ResetAtAnyStep :
    let s := { midBody with cfgAsciiMax := 6, sched := [.reset] }
    6 ≤ s.cfgAsciiMax.toNat ∧ 6 ≤ s.params.asciiMax.toNat ∧ s.sched = .reset :: [] := by decide

theorem witness_IllegalConfigurationIsRefused :
    ({ bin with cfgAsciiMax := 5 } : State).cfgAsciiMax.toNat < 6 ∧
      let s := { bin with params := { testParams .binary with asciiMax := 5 }, sched := [.reset] }
      s.params.asciiMax.toNat < 6 ∧ s.sched = .reset :: [] := by decide

theorem witness_ResCodeOnlyAfterUnexpectedCodes :
    ∃ t, exec .decw bin = .next t ∧ t.status.err ≠ .unexpectedCommand ∧ t.status.err ≠ .unexpectedResponse :=
  ⟨_, rfl, by decide, by decide⟩

theorem witness_StepRunsTheDecodedInstruction :
    let s := { bin with cfgAsciiMax := 6, port := [.word (.command 0x00000001), .copyDout] }
    6 ≤ s.cfgAsciiMax.toNat ∧ s.status.busy = false ∧ s.port = .word (.command 0x00000001) :: [.copyDout] ∧
      decode (.command 0x00000001) = .ok .crca ∧ s.sched = [] ∧
      ({ s with sched := [.blockTurn] } : State).sched = .blockTurn :: [] :=
  ⟨by decide, rfl, rfl, rfl, rfl, rfl⟩

theorem witness_FetchWordRunsNext :
    6 ≤ State.reset.cfgAsciiMax.toNat ∧ decodeTableWord 32 0x00000530 = some (.rdx 5) ∧
      decodeTableWord 8 0x91 = some .pingReq := ⟨by decide, rfl, rfl⟩

theorem witness_IllegalWordEndsWithIllegalOp :
    let s := { bin with port := [.word (.command 0x00000101)], sched := [.blockTurn] }
    TurnAt s [] ∧ s.port = .word (.command 0x00000101) :: [] ∧
      decode (.command 0x00000101) = .error (.illegalOp 0x01) ∧ Inv s :=
  ⟨⟨by decide, rfl, rfl⟩, rfl, rfl, by constructor <;> decide⟩

-- R40's latches and R75 on an illegal word: V-D2
theorem test_illegal_word_V_D2 :
    let t := acceptIllegal 0x00000101 { bin with din := [0x04], dout := [0xEE] }
    t.status.word = 0x00000230 ∧ t.dout = [] ∧ t.res = Results.zero ∧ t.cmdLatch = 0x00000101 ∧ t.dinSnap = [0x04] := by decide

theorem witness_VariantGating :
    ((∃ cmd, Instr.encb 0x91 = .encb cmd) ∧ asc.cfgVariant = .ascii) ∧
      ((∃ addr acmd, Instr.enca 0x01 0x50 = .enca addr acmd) ∧ bin.cfgVariant = .binary) ∧
      (∃ n, Instr.rdx 0 = .rdx n) ∧ asc.cfgVariant ≠ .binary ∧ bin.cfgVariant ≠ .ascii ∧
      (∃ t, exec .decw bin = .next t) ∧ ∃ t, exec .decab asc = .next t :=
  ⟨⟨⟨_, rfl⟩, rfl⟩, ⟨⟨_, _, rfl⟩, rfl⟩, ⟨_, rfl⟩, by decide, by decide, ⟨_, rfl⟩, _, rfl⟩

theorem witness_PureOperationsCompleteAtAccept : isPure .decab = true ∧ bin.phase = .idle := ⟨rfl, rfl⟩

theorem witness_IdleBlockKeepsAllState :
    6 ≤ bin.cfgAsciiMax.toNat ∧ bin.status.busy = false ∧ bin.port = [] ∧ bin.sched = [] := by decide

theorem witness_CrcaIsLinear : [0x12#8, 0xFF].length = [0x34#8, 0x01].length := rfl

theorem witness_CrcaDetectsEverySingleBitChange : 1 < [0x91#8, 0x04].length ∧ 0 < [0x91#8, 0x04].length ∧ 7 < 8 := by decide

/-- The legal word and one with the reserved bit nearest OP set. -/
theorem witness_CrcaCompletes : (0x00000101 : Word).toNat % 256 = 0x01 ∧ (0x00000001 : Word).toNat % 256 = 0x01 := by decide

/-- The legal word and one with the reserved bit farthest from OP set. -/
theorem witness_CrcbCompletes : (0x80000002 : Word).toNat % 256 = 0x02 ∧ (0x00000002 : Word).toNat % 256 = 0x02 := by decide

/-- Both sides of the reserved bits, of the variant and of the payload limit. -/
theorem witness_EncbCompletes :
    (0x0000FF10 : Word).toNat % 256 = 0x10 ∧ (0x00010010 : Word).toNat % 256 = 0x10 ∧ asc.cfgVariant ≠ .binary ∧
    bin.cfgVariant = .binary ∧ ({ bin with din := List.replicate 65534 0 } : State).din.length ≤ 65534 ∧
      65534 < ({ bin with din := List.replicate 65535 0 } : State).din.length :=
  ⟨by decide, by decide, by decide, rfl, List.length_replicate.le,
    Nat.lt_of_lt_of_eq (by decide) List.length_replicate.symm⟩

theorem witness_DecbbCompletes :
    (0x00FF0112 : Word).toNat % 256 = 0x12 ∧ (0x00010012 : Word).toNat % 256 = 0x12 ∧ asc.cfgVariant ≠ .binary ∧
      bin.cfgVariant = .binary := by decide

/-- The largest payload; and the weight request's frame of 8 bytes on a stream, one byte a read, with a byte after it. -/
theorem witness_EncodeThenDecodeGivesTheBody :
    bin.cfgVariant = .binary ∧ ({ bin with din := List.replicate 65534 0 } : State).din.length ≤ 65534 ∧
      ∃ t, exec (.encb 0xA0) bin = .next t ∧
        let ks := List.replicate 8 1
        let v :=
          { bin with
            port := [.word (.command (commandWord (.decb true 0xA0)))]
            stream := { unread := t.dout ++ [0xEE], shut := false }, sched := .blockTurn :: deliveries ks }
        v.cfgVariant = .binary ∧ v.cfgHeader = bin.cfgHeader ∧ TurnAt v (deliveries ks) ∧
          v.port = .word (.command (commandWord (.decb true 0xA0))) :: [] ∧
          v.stream = { unread := t.dout ++ [0xEE], shut := false } ∧ t.dout.length ≤ ks.length :=
  ⟨rfl, List.length_replicate.le, _, rfl, rfl, rfl, ⟨by decide, rfl, rfl⟩, rfl, rfl, by decide⟩

/-- The first and the last byte each clause covers, for the ping frame's body. -/
theorem witness_SingleBitCorruptionIsDetected :
    let body : List Byte := [0x91, 0x04]
    bin.cfgVariant = .binary ∧ 1 ≤ body.length ∧ body.length ≤ 65535 ∧
      (5 < body.length + 7 ∧ 5 ≤ 5) ∧ (8 < body.length + 7 ∧ 5 ≤ 8) ∧ (0 < body.length + 7 ∧ 0 < 3) ∧
      (2 < body.length + 7 ∧ 2 < 3) ∧ 7 < 8 ∧
      ({ bin with din := flipBit (frame bin.cfgHeader body) 8 7 } : State).din = flipBit (frame bin.cfgHeader body) 8 7 := by
  decide +kernel

theorem witness_DecbOverAnyChunkingAgreesWithDecbb :
    let d : List Byte := [0xA5, 0x5A, 0xC3, 0x01, 0x00, 0x51, 0x51, 0x00]
    let ks := [2, 1, 2, 1, 2, 0, 0, 0]
    let s :=
      { bin with
        port := [.word (.command (commandWord (.decb true 0x51)))], stream := { unread := d, shut := false }
        sched := .blockTurn :: (deliveries ks ++ [.answer .close]) }
    s.cfgVariant = .binary ∧ (true = false → (0x51 : Byte) = 0) ∧
      TurnAt s (deliveries ks ++ [.answer .close]) ∧
      s.port = .word (.command (commandWord (.decb true 0x51))) :: [] ∧ s.stream = { unread := d, shut := false } ∧
      d.length ≤ ks.length :=
  ⟨rfl, nofun, ⟨by decide, rfl, rfl⟩, rfl, rfl, by decide⟩

/-- Each clause: the words at the edge of the format, the other variant, the four phases, an empty body at B_LEN. -/
theorem witness_DecbFollowsRule124 :
    (0x00000111 : Word).toNat % 256 = 0x11 ∧ (0x00000011 : Word).toNat % 256 = 0x11 ∧ (0x00000211 : Word).toNat % 256 = 0x11 ∧
      asc.cfgVariant ≠ .binary ∧ bin.cfgVariant = .binary ∧ decbPhase midBody.phase = true ∧
    (let s := { midBody with phase := .bHdr, need := 3, rxbuf := [0xA5], hdrbuf := [] };
      s.phase = .bHdr ∧ s.need = 3 ∧ s.rxbuf.length + [0x5A#8, 0xC3].length = 3) ∧
      (let s := { midBody with phase := .bLen, need := 2, rxbuf := [0x00] };
        s.phase = .bLen ∧ s.need = 2 ∧ s.rxbuf ++ [0x00] = [0x00, 0x00]) ∧
      (midBody.phase = .bBody ∧ midBody.rxbuf.length + [0x00#8, 0x00, 0x02, 0x01].length = midBody.need.toNat) ∧
      (let s := { midBody with phase := .bCrc, need := 2, rxbuf := [] };
        s.phase = .bCrc ∧ s.need = 2 ∧ s.rxbuf ++ [0x60, 0x1C] = [0x60, 0x1C] ∧
          s.cmdLatch = commandWord (.decb true 0x10) ∧ s.res = Results.zero) := by decide

/-- The words at the edge of the format; the last byte of five. -/
theorem witness_RdxCompletes :
    (0x00FFFF30 : Word).toNat % 256 = 0x30 ∧ (0x01000030 : Word).toNat % 256 = 0x30 ∧
      let s := { bin with phase := .xRead, status := Status.inFlight, need := 5, rxbuf := [0xA5, 0x5A, 0xC3, 0x07] }
      s.phase = .xRead ∧ s.rxbuf.length + [0x00#8].length = s.need.toNat ∧ s.res = Results.zero := by decide

theorem witness_RdxDeliversExactlyTheNextBytes :
    let s :=
      { bin with
        port := [.word (.command (commandWord (.rdx 1)))], stream := { unread := [0xA5, 0x5A], shut := false }
        sched := .blockTurn :: deliveries [0] }
    1 ≤ (1 : Half).toNat ∧ TurnAt s (deliveries [0]) ∧ s.port = .word (.command (commandWord (.rdx 1))) :: [] ∧
      s.stream.shut = false ∧ (1 : Half).toNat ≤ s.stream.unread.length ∧ (1 : Half).toNat ≤ [0].length :=
  ⟨by decide, ⟨by decide, rfl, rfl⟩, rfl, rfl, by decide, by decide⟩

theorem witness_PartialChunkIsAppended :
    exactPhase midBody.phase = true ∧ midBody.rxbuf.length + [0x00#8, 0x00, 0x02].length < midBody.need.toNat := by decide

theorem witness_ClosedAndTimedOutAreDistinct :
    6 ≤ midBody.cfgAsciiMax.toNat ∧ midBody.status.busy = true ∧ exactPhase midBody.phase = true ∧
      midBody.rxbuf.length < midBody.need.toNat ∧
      ({ midBody with sched := [.answer .close] } : State).sched = .answer .close :: [] ∧
      ({ midBody with sched := [.answer .timeOut] } : State).sched = .answer .timeOut :: [] := by decide

theorem witness_RdbReadsOnce :
    (0x00000031 : Word).toNat % 256 = 0x31 ∧ (0x00000131 : Word).toNat % 256 = 0x31 ∧
    let s := { bin with phase := .rRead, status := Status.inFlight }
    s.phase = .rRead ∧ s.res = Results.zero := by decide

theorem witness_StreamBytesLeaveOnlyAsChunks :
    ∃ t, step { midBody with stream := { unread := [0x00], shut := false }, sched := [.answer (.deliver 1)] } = .next t :=
  ⟨_, rfl⟩

theorem witness_EncaCompletes :
    (0x00FFFF20 : Word).toNat % 256 = 0x20 ∧ (0x01000020 : Word).toNat % 256 = 0x20 ∧ bin.cfgVariant ≠ .ascii ∧
      asc.cfgVariant = .ascii := by decide

theorem witness_DecabCompletes :
    (0x00000022 : Word).toNat % 256 = 0x22 ∧ (0x00000122 : Word).toNat % 256 = 0x22 ∧ bin.cfgVariant ≠ .ascii ∧
      asc.cfgVariant = .ascii := by decide

theorem witness_AsciiFrameIsDecoded :
    asc.cfgVariant = .ascii ∧ parseDecimal [0x2D, 0x37, 0x2E, 0x35] = some { neg := true, mant := 75, scale := 1 } ∧
      ({ asc with din := asciiFrame 0x01 0x50 [0x2D, 0x37, 0x2E, 0x35] } : State).din =
        asciiFrame 0x01 0x50 [0x2D, 0x37, 0x2E, 0x35] := by decide +kernel

theorem witness_DecaReadsOnceAndDecodes :
    let s := { asc with phase := .aRead, status := Status.inFlight }
    (0x00000021 : Word).toNat % 256 = 0x21 ∧ (0x00000121 : Word).toNat % 256 = 0x21 ∧ bin.cfgVariant ≠ .ascii ∧
    asc.cfgVariant = .ascii ∧ s.phase = .aRead ∧ s.cfgVariant = .ascii ∧ s.res = Results.zero ∧ s.dout = [] ∧
      ∃ u, exec .decab { s with din := [0x02] } = .next u :=
  ⟨by decide, by decide, by decide, rfl, rfl, rfl, rfl, rfl, _, rfl⟩

/-- Each clause at its boundary: an empty body, one foreign byte, six bytes, seven bytes. -/
theorem witness_DecwCompletes :
    (0x00000013 : Word).toNat % 256 = 0x13 ∧ (0x00000113 : Word).toNat % 256 = 0x13 ∧ asc.cfgVariant ≠ .binary ∧
    (bin.cfgVariant = .binary ∧ bin.din = []) ∧
      (({ bin with din := [0x51] } : State).din = 0x51 :: [] ∧ (0x51 : Byte) ≠ 0x10) ∧
      (({ bin with din := [0x10, 0x39, 0x30, 0x00, 0x00, 0x02] } : State).din = 0x10 :: [0x39, 0x30, 0x00, 0x00, 0x02] ∧
        [0x39#8, 0x30, 0x00, 0x00, 0x02].length < 6) ∧
      ({ bin with din := [0x10, 0x39, 0x30, 0x00, 0x00, 0x02, 0x01] } : State).din =
        weightBody 0x39 0x30 0x00 0x00 0x02 0x01 ++ [] := by decide

theorem witness_WeightIsRawTimesDivisor :
    let s := { bin with din := weightBody 0xFF 0xFF 0xFF 0x7F 0x09 0x00 }
    s.cfgVariant = .binary ∧ s.din = weightBody 0xFF 0xFF 0xFF 0x7F 0x09 0x00 := by decide

theorem witness_RequestFrames : bin.cfgVariant = .binary := rfl

theorem witness_ResponsesStartDecb : bin.cfgVariant = .binary := rfl

theorem witness_PseudoOperationsAreTheirExpansions :
    6 ≤ bin.cfgAsciiMax.toNat ∧ bin.status.busy = false ∧ bin.port = [] ∧
      (∀ line : AsmLine, ({ bin with sched := line.expand ++ [] } : State).sched = line.expand ++ []) :=
  ⟨by decide, rfl, rfl, fun _ => rfl⟩

theorem witness_WeightResponseIsRead :
    let ks := List.replicate 14 1
    let s :=
      { bin with
        port := [.word (.wire 0x10)]
        stream := { unread := frame bin.cfgHeader (weightBody 0x39 0x30 0x00 0x00 0x02 0x01) ++ [0xEE], shut := false }
        sched := .blockTurn :: deliveries ks }
    s.cfgVariant = .binary ∧ TurnAt s (deliveries ks) ∧ s.port = [.word (.wire 0x10)] ∧
      s.stream =
        { unread := frame s.cfgHeader (weightBody 0x39 0x30 0x00 0x00 0x02 0x01) ++ [0xEE], shut := false } ∧
      14 ≤ ks.length :=
  ⟨rfl, ⟨by decide, rfl, rfl⟩, rfl, rfl, by decide⟩

theorem witness_StepKeepsTheInvariant :
    Inv { bin with sched := [.din [0x04]] } ∧ ∃ t, step { bin with sched := [.din [0x04]] } = .next t :=
  ⟨by constructor <;> decide, _, rfl⟩

theorem witness_NoStepChangesTheConfiguration :
    Inv { bin with sched := [.reset] } ∧ ∃ t, step { bin with sched := [.reset] } = .next t :=
  ⟨by constructor <;> decide, _, rfl⟩

theorem witness_NoAcceptWhileBusy :
    let s := { midBody with port := [.word (.command 0x00000001)], sched := [.blockTurn] }
    s.status.busy = true ∧ ∃ t, step s = .next t :=
  ⟨rfl, _, rfl⟩

theorem witness_OperationInFlightDoesNotSeeDin :
    midBody.status.busy = true ∧ ∃ t, step { midBody with sched := [.answer .timeOut] } = .next t :=
  ⟨rfl, _, rfl⟩

/-- One state for each of the three ways. -/
theorem witness_OnlyTheEnvironmentStopsTheMachine :
    Inv bin ∧ Inv { bin with sched := [.din (List.replicate 65543 0)] } ∧ Inv { bin with port := [.word (.wire 0x77)] } :=
  ⟨by constructor <;> decide, by constructor <;> decide, by constructor <;> decide⟩

theorem witness_AnsweredOperationsComplete :
    let s :=
      { midBody with
        sched := List.replicate 65542 (.answer (.deliver 1)), stream := { unread := List.replicate 65542 0, shut := false } }
    Inv s ∧ s.status.busy = true ∧ (∀ e ∈ s.sched, ∃ d, e = .answer d) ∧ 65542 ≤ s.sched.length ∧
      65542 ≤ s.stream.unread.length := by
  refine ⟨by constructor <;> decide, rfl, ?_, List.length_replicate.ge, List.length_replicate.ge⟩
  intro e he
  exact ⟨_, (List.mem_replicate.mp he).2⟩

/-- A silent peer: DIN is written and the block has a turn before the timer expires. -/
def silentPeer : State := { midBody with sched := [.din [0x04], .blockTurn, .answer .timeOut] }

/-- Where that run ends. -/
def silentPeerEnd : State :=
  raise .timeout { midBody with din := [0x04], sched := [] }

theorem silentPeer_run : Host.Core.run Sys2Proof.core 3 silentPeer = .next silentPeerEnd := rfl

theorem silentPeer_fair : WeaklyFair silentPeer := by
  intro k t h hr
  match k with
  | 0 => cases h; exact ⟨2, _, rfl, .inl ⟨.timeOut, [], rfl, rfl⟩⟩
  | 1 => cases h; exact ⟨1, _, rfl, .inl ⟨.timeOut, [], rfl, rfl⟩⟩
  | 2 => cases h; exact ⟨0, _, rfl, .inl ⟨.timeOut, [], rfl, rfl⟩⟩
  | k + 3 =>
    rw [Nat.add_comm, run_add k silentPeer_run, run_of_step_self rfl] at h
    cases h
    cases hr

theorem witness_FairOracleEndsEveryOperation :
    (Inv silentPeer ∧ silentPeer.status.busy = true ∧ WeaklyFair silentPeer) ∧
      let s := { silentPeer with sched := [.answer .timeOut] }
      Inv s ∧ readEnabled s = true ∧ ReadAnswered s ∧ ∃ t, step s = .next t :=
  ⟨⟨by constructor <;> decide, rfl, silentPeer_fair⟩, by constructor <;> decide, rfl, ⟨.timeOut, [], rfl, rfl⟩, _, rfl⟩

end Sys2Proof.Tests
end

section
/-! Command words as numbers, and exec as accept followed by one operation (R40). -/

namespace Sys2Proof.Machine

open Sys2Proof.Expected

/-! ## The encoder's words as numbers (R71) -/

/-- Two bytes side by side are a sum. -/
theorem shiftLeft_or_byte (a : Nat) {b : Nat} (hb : b < 256) : a <<< 8 ||| b = 256 * a + b := by
  rw [← Nat.shiftLeft_add_eq_or_of_lt hb, Nat.shiftLeft_eq]
  omega

/-- Three bytes side by side are a sum. -/
theorem shiftLeft_or_two_bytes (a : Nat) {b c : Nat} (hb : b < 256) (hc : c < 256) :
    a <<< 16 ||| b <<< 8 ||| c = 65536 * a + 256 * b + c := by
  have h : a <<< 16 = (a <<< 8) <<< 8 := (Nat.shiftLeft_add a 8 8)
  rw [h, ← Nat.shiftLeft_or_distrib, shiftLeft_or_byte a hb, shiftLeft_or_byte _ hc]
  omega

theorem encodeA_eq_ofNat (op addr acmd : Byte) :
    encodeA op addr acmd = BitVec.ofNat 32 (op.toNat + 256 * addr.toNat + 65536 * acmd.toNat) := by
  have hop := op.isLt
  have haddr := addr.isLt
  have hacmd := acmd.isLt
  apply BitVec.eq_of_toNat_eq
  simp only [encodeA, BitVec.toNat_or, BitVec.toNat_shiftLeft, BitVec.toNat_setWidth, BitVec.toNat_ofNat]
  rw [Nat.mod_eq_of_lt (a := addr.toNat) (by omega), Nat.mod_eq_of_lt (a := op.toNat) (by omega),
    Nat.mod_eq_of_lt (a := acmd.toNat) (by omega),
    Nat.mod_eq_of_lt (a := addr.toNat <<< 8) (by rw [Nat.shiftLeft_eq]; omega),
    Nat.mod_eq_of_lt (a := acmd.toNat <<< 16) (by rw [Nat.shiftLeft_eq]; omega),
    shiftLeft_or_two_bytes _ haddr hop]
  omega

/-- Format B is format A with the bits of ACMD 0. -/
theorem encodeB_eq_encodeA (op cmd : Byte) : encodeB op cmd = encodeA op cmd 0 := by
  simp [encodeA, encodeB]

theorem encodeB_eq_ofNat (op cmd : Byte) : encodeB op cmd = BitVec.ofNat 32 (op.toNat + 256 * cmd.toNat) := by
  rw [encodeB_eq_encodeA, encodeA_eq_ofNat]
  rfl

/-- Format E is format A with EV in the place of ADDR. -/
theorem encodeE_eq_encodeA (op : Byte) (ev : Bool) (exp : Byte) :
    encodeE op ev exp = encodeA op ((BitVec.ofBool ev).setWidth 8) exp := by
  cases ev <;> rfl

theorem encodeE_eq_ofNat (op : Byte) (ev : Bool) (exp : Byte) :
    encodeE op ev exp = BitVec.ofNat 32 (op.toNat + 256 * ev.toNat + 65536 * exp.toNat) := by
  rw [encodeE_eq_encodeA, encodeA_eq_ofNat]
  cases ev <;> rfl

theorem encodeN_eq_ofNat (op : Byte) (n : Half) : encodeN op n = BitVec.ofNat 32 (op.toNat + 256 * n.toNat) := by
  have hop := op.isLt
  have hn := n.isLt
  apply BitVec.eq_of_toNat_eq
  simp only [encodeN, BitVec.toNat_or, BitVec.toNat_shiftLeft, BitVec.toNat_setWidth, BitVec.toNat_ofNat]
  rw [Nat.mod_eq_of_lt (a := n.toNat) (by omega), Nat.mod_eq_of_lt (a := op.toNat) (by omega),
    Nat.mod_eq_of_lt (a := n.toNat <<< 8) (by rw [Nat.shiftLeft_eq]; omega), shiftLeft_or_byte _ hop]
  omega

theorem commandWord_encb (cmd : Byte) : commandWord (.encb cmd) = encodeB 0x10 cmd := (encodeB_eq_ofNat 0x10 cmd).symm

theorem commandWord_decb (ev : Bool) (exp : Byte) : commandWord (.decb ev exp) = encodeE 0x11 ev exp :=
  (encodeE_eq_ofNat 0x11 ev exp).symm

theorem commandWord_decbb (ev : Bool) (exp : Byte) : commandWord (.decbb ev exp) = encodeE 0x12 ev exp :=
  (encodeE_eq_ofNat 0x12 ev exp).symm

theorem commandWord_enca (addr acmd : Byte) : commandWord (.enca addr acmd) = encodeA 0x20 addr acmd :=
  (encodeA_eq_ofNat 0x20 addr acmd).symm

theorem commandWord_rdx (n : Half) : commandWord (.rdx n) = encodeN 0x30 n := (encodeN_eq_ofNat 0x30 n).symm

/-! ## The fields of a format E word, as DECB reads them from CMD_LATCH (R124) -/

@[simp] theorem evField_encodeE (op : Byte) (ev : Bool) (exp : Byte) : evField (encodeE op ev exp) = ev := by
  cases ev <;> simp [evField, encodeE]

@[simp] theorem byteField2_encodeE (op : Byte) (ev : Bool) (exp : Byte) : byteField2 (encodeE op ev exp) = exp := by
  apply BitVec.eq_of_getLsbD_eq
  intro i hi
  have hev : (BitVec.ofBool ev).getLsbD (8 + i) = false := BitVec.getLsbD_of_ge _ _ (by omega)
  have hop : op.getLsbD (16 + i) = false := BitVec.getLsbD_of_ge _ _ (by omega)
  have h32 : 16 + i < 32 := by omega
  have h8 : 16 + i - 8 = 8 + i := by omega
  simp [byteField2, encodeE, hi, h32, h8, hev, hop]

/-! ## exec is accept, then the operation -/

/-- What the issuer of a wire code does before its command word is accepted (R86): DIN, or what it goes on holding. -/
def issuerPrepares : Instr → State → State
  | .pingReq, s => { s with din := [0x04] }
  | .weightReq, s => { s with din := [] }
  | .weightResp, s => { s with port := wrespRest ++ s.port }
  | _, s => s

/-- What runs in the accept step after the latching (R40). -/
def operation : Instr → State → State
  | .crca, s => publishCrc (crcA s.dinSnap) s
  | .crcb, s => publishCrc (crcB s.dinSnap) s
  | .encb cmd, s => gate .binary (encodeBinary cmd) s
  | .decb _ _, s => gate .binary startDecb s
  | .decbb ev exp, s => gate .binary (decodeBinaryDin ev exp) s
  | .decw, s => gate .binary decodeWeight s
  | .enca addr acmd, s => gate .ascii (encodeAscii addr acmd) s
  | .deca, s => gate .ascii startDeca s
  | .decab, s => gate .ascii (fun t => decodeAscii t.dinSnap t) s
  | .rdx n, s => startRdx n s
  | .rdb, s => { s with phase := .rRead }
  | .pingReq, s => gate .binary (encodeBinary 0x91) s
  | .weightReq, s => gate .binary (encodeBinary 0xA0) s
  | .pingAck, s => gate .binary startDecb s
  | .weightResp, s => gate .binary startDecb s

/-- Every instruction is its issuer's preparation, the accept of its command word, and its operation. -/
theorem exec_eq (i : Instr) (s : State) :
    exec i s = .next (operation i (accept (commandWord i) (issuerPrepares i s))) := by
  cases i with
  | encb cmd => rw [commandWord_encb]; rfl
  | decb ev exp => rw [commandWord_decb]; rfl
  | decbb ev exp => rw [commandWord_decbb]; rfl
  | enca addr acmd => rw [commandWord_enca]; rfl
  | rdx n => rw [commandWord_rdx]; rfl
  | crca | crcb | decw | deca | decab | rdb | pingReq | weightReq | pingAck | weightResp => rfl

/-- After accept no operation writes the frame. -/
theorem operation_frame (i : Instr) (s : State) : SameFrame s (operation i s) := by
  cases i with
  | crca | crcb | rdb => exact ⟨rfl, rfl, rfl, rfl, rfl, rfl, rfl, rfl, rfl, rfl⟩
  | encb | pingReq | weightReq => exact gate_frame (encodeBinary_frame _) s
  | decb | pingAck | weightResp => exact gate_frame (beginRead_frame .bHdr 3) s
  | decbb ev exp => exact gate_frame (decodeBinaryDin_frame ev exp) s
  | decw => exact gate_frame decodeWeight_frame s
  | enca addr acmd =>
    exact gate_frame (op := encodeAscii addr acmd) (fun u => ⟨rfl, rfl, rfl, rfl, rfl, rfl, rfl, rfl, rfl, rfl⟩) s
  | deca => exact gate_frame (op := startDeca) (fun u => ⟨rfl, rfl, rfl, rfl, rfl, rfl, rfl, rfl, rfl, rfl⟩) s
  | decab => exact gate_frame (op := fun t => decodeAscii t.dinSnap t) (fun u => decodeAscii_frame u.dinSnap u) s
  | rdx n =>
    simp only [operation, startRdx]
    split <;> exact ⟨rfl, rfl, rfl, rfl, rfl, rfl, rfl, rfl, rfl, rfl⟩

/-- Settles O16: exec answers its operation's state, whose CMD_LATCH is accept's. -/
theorem everyInstructionAnswersANextState : Obligations.EveryInstructionAnswersANextState := by
  intro i s
  exact ⟨_, exec_eq i s, (operation_frame i _).cmdLatch⟩

end Sys2Proof.Machine
end

section
/-! The end of an operation (R41, R221): with an error, or with OK over results that are legal. -/

namespace Sys2Proof.Machine

open Sys2Proof.Expected

/-- What an operation may leave in DOUT and the result registers when it completes with OK (R27, R29, R31). -/
structure ResultsFit (s : State) : Prop where
  dout : s.dout.length ≤ Config.pDinMax
  code : s.res.code = 0
  wexp : s.res.wexp.toNat ≤ 4
  vscale : s.res.vscale ≤ s.dout.length
  len : s.dout ≠ [] → s.res.len.toNat = s.dout.length

/-- The state is one an operation ends in: error completion with an error that occurs (R221, R223), or completion with OK (R41)
over results that fit wherever DIN_SNAP does. -/
inductive Ending : State → Prop where
  | failed (e : Err) (s : State) (hok : e ≠ .ok) (hconn : e ≠ .connectFailed) : Ending (raise e s)
  | finished (s : State) (hfit : s.dinSnap.length ≤ Config.pDinMax → ResultsFit s) : Ending (finish s)

theorem Ending.completed {t : State} (h : Ending t) :
    t.phase = .idle ∧ t.status.busy = false ∧ t.status.done = true := by
  cases h <;> exact ⟨rfl, rfl, rfl⟩

/-- raiseWithCode is a raise. -/
theorem Ending.failedWithCode (e : Err) (c : Byte) (s : State) (hok : e ≠ .ok) (hconn : e ≠ .connectFailed) :
    Ending (raiseWithCode e c s) :=
  .failed e _ hok hconn

/-- R78: outside its variant an operation ends, so only the permitted configuration is left to show. -/
theorem gate_ending {v : Variant} {op : State → State} {s : State} (h : Ending (op s)) : Ending (gate v op s) := by
  unfold gate
  split
  · exact h
  · exact .failed _ _ nofun nofun

/-- RES_LEN of a sequence that a buffer can hold. -/
theorem lenWord_toNat {n : Nat} (h : n ≤ Config.pDinMax) : (lenWord n).toNat = n := by
  have hmax : Config.pDinMax = 65542 := rfl
  rw [lenWord, BitVec.toNat_ofNat]
  omega

/-! ## CRC engine and encoders -/

theorem publishCrc_ending (c : Half) {s : State} (hres : s.res = Results.zero) : Ending (publishCrc c s) := by
  refine .finished _ fun _ => ⟨?_, ?_, ?_, ?_, fun _ => rfl⟩ <;> simp [hres, Results.zero, Config.pDinMax]

theorem binaryFrame_length (h : Header) (body : List Byte) : (binaryFrame h body).length = body.length + 7 := by
  simp only [binaryFrame, List.length_append, headerBytes_length, le16_length]
  omega

theorem encodeBinary_ending (cmd : Byte) {s : State} (hres : s.res = Results.zero) : Ending (encodeBinary cmd s) := by
  unfold encodeBinary
  split
  · exact .failed _ _ nofun nofun
  · next hfits =>
    have hlen : (binaryFrame s.cfgHeader (cmd :: s.dinSnap)).length ≤ Config.pDinMax := by
      simp only [binaryFrame_length, List.length_cons, encbPayloadMax, Config.pDinMax] at hfits ⊢
      omega
    refine .finished _ fun _ => ⟨hlen, ?_, ?_, ?_, fun _ => lenWord_toNat hlen⟩ <;> simp [hres, Results.zero]

theorem encodeAscii_ending (addr acmd : Byte) {s : State} (hres : s.res = Results.zero) :
    Ending (encodeAscii addr acmd s) := by
  refine .finished _ fun _ => ⟨?_, ?_, ?_, ?_, fun _ => rfl⟩ <;> simp [hres, Results.zero, Config.pDinMax]

/-! ## Binary frames -/

/-- The CRC compare and the checks after it end the operation. -/
theorem checkBinary_ending (ev : Bool) (exp : Byte) {body : List Byte} (rx : Half) {s : State}
    (hbody : body.length ≤ 65535) (hres : s.res = Results.zero) : Ending (checkBinary ev exp body rx s) := by
  have hdeliver : Ending (deliverBody body s) := by
    have hlen : body.length ≤ Config.pDinMax := Nat.le_trans hbody (by decide)
    refine .finished _ fun _ => ⟨hlen, ?_, ?_, ?_, fun _ => lenWord_toNat hlen⟩ <;> simp [hres, Results.zero]
  unfold checkBinary
  split
  · exact .failed _ _ nofun nofun
  · split
    · exact .failed _ _ nofun nofun
    · split
      · exact .failedWithCode _ _ _ nofun nofun
      · exact hdeliver
    · exact hdeliver

theorem decodeBinaryDin_ending (ev : Bool) (exp : Byte) {s : State} (hres : s.res = Results.zero) :
    Ending (decodeBinaryDin ev exp s) := by
  unfold decodeBinaryDin
  split
  · exact .failed _ _ nofun nofun
  split
  · exact .failed _ _ nofun nofun
  split
  · exact .failed _ _ nofun nofun
  split
  · exact .failed _ _ nofun nofun
  next lb _ _ _ body _ hread =>
  have hbody : body.length = (rdLe16 lb 0).toNat := (readExactDin_some_iff.mp hread).2
  split
  · exact .failed _ _ nofun nofun
  · exact checkBinary_ending ev exp _ (by omega) hres

/-! ## ASCII frames -/

/-- The digits after the point are bytes of the payload (R152). -/
theorem scanDigits_fp_length {p : List Byte} {acc r : DigitScan} (h : scanDigits p acc = some r) :
    r.fp.length ≤ acc.fp.length + p.length := by
  induction p generalizing acc with
  | nil => cases h; simp
  | cons b rest ih =>
    unfold scanDigits at h
    split at h
    · have hrest := ih h
      split at hrest <;> simp only [List.length_append, List.length_cons, List.length_nil] at hrest ⊢ <;> omega
    · split at h
      · have hrest := ih h
        simp only [List.length_cons] at hrest ⊢
        omega
      · cases h

theorem parseUnsigned_scale_le {neg : Bool} {p : List Byte} {d : Decimal} (h : parseUnsigned neg p = some d) :
    d.scale ≤ p.length := by
  unfold parseUnsigned at h
  split at h
  · cases h
  · next acc hscan =>
    have hfp := scanDigits_fp_length hscan
    split at h
    · cases h
    · cases h; simpa using hfp

/-- RES_VSCALE is at most the payload's length (R31, R152). -/
theorem parseDecimal_scale_le {p : List Byte} {d : Decimal} (h : parseDecimal p = some d) : d.scale ≤ p.length := by
  unfold parseDecimal at h
  split at h
  · exact parseUnsigned_scale_le h
  · split at h
    · exact Nat.le_succ_of_le (parseUnsigned_scale_le h)
    · exact parseUnsigned_scale_le h

/-- The payload of an ASCII frame of n bytes (R83). -/
theorem payload_length {buf : List Byte} (h : 6 ≤ buf.length) : (slice buf 3 (buf.length - 3)).length = buf.length - 6 := by
  simp only [slice, List.length_take, List.length_drop]
  omega

theorem decodeAscii_ending {buf : List Byte} {s : State} (hres : s.res = Results.zero)
    (hbuf : s.dinSnap.length ≤ Config.pDinMax → buf.length ≤ Config.pDinMax) : Ending (decodeAscii buf s) := by
  simp only [decodeAscii]
  split
  · exact .failed _ _ nofun nofun
  next hlong =>
  split
  · exact .failed _ _ nofun nofun
  split
  · exact .failed _ _ nofun nofun
  split
  · exact .failed _ _ nofun nofun
  next d hparse =>
  have hp : (slice buf 3 (buf.length - 3)).length = buf.length - 6 := payload_length (Nat.le_of_not_lt hlong)
  refine .finished _ fun hsnap => ?_
  have hlen : buf.length - 6 ≤ Config.pDinMax := Nat.le_trans (Nat.sub_le _ _) (hbuf hsnap)
  exact
    { dout := hp ▸ hlen
      code := by simp [hres, Results.zero]
      wexp := by simp [hres, Results.zero]
      vscale := parseDecimal_scale_le hparse
      len := fun _ => (lenWord_toNat hlen).trans hp.symm }

/-! ## Weight payloads, RDX -/

/-- RES_WEXP is 0..4 (R31, R203). -/
theorem divisionExponent_le (div : Byte) : (divisionExponent div).toNat ≤ 4 := by
  unfold divisionExponent
  split
  · next h =>
    have hfour : (4 : Byte).toNat = 4 := rfl
    rw [BitVec.toNat_setWidth, BitVec.toNat_sub_of_le (BitVec.ule_iff_le.mp h)]
    omega
  · simp

theorem decodeWeight_ending {s : State} (hres : s.res = Results.zero) (hdout : s.dout = []) :
    Ending (decodeWeight s) := by
  simp only [decodeWeight]
  split
  · exact .failed _ _ nofun nofun
  · split
    · exact .failedWithCode _ _ _ nofun nofun
    · split
      · exact .failed _ _ nofun nofun
      · refine .finished _ fun _ => ⟨?_, ?_, divisionExponent_le _, ?_, ?_⟩ <;> simp [hres, hdout, Results.zero]

theorem rdxDone_ending {bytes : List Byte} {s : State} (hres : s.res = Results.zero)
    (hlen : bytes.length ≤ Config.pDinMax) : Ending (rdxDone bytes s) := by
  refine .finished _ fun _ => ⟨hlen, ?_, ?_, ?_, fun _ => lenWord_toNat hlen⟩ <;> simp [hres, Results.zero]

/-! ## The pure operations -/

/-- R32: after accept a pure operation ends in the same step. -/
theorem operation_ending_of_isPure {i : Instr} {s : State} (hi : isPure i = true) (hres : s.res = Results.zero)
    (hdout : s.dout = []) : Ending (operation i s) := by
  cases i with
  | crca | crcb => exact publishCrc_ending _ hres
  | encb cmd => exact gate_ending (encodeBinary_ending cmd hres)
  | decbb ev exp => exact gate_ending (decodeBinaryDin_ending ev exp hres)
  | decw => exact gate_ending (decodeWeight_ending hres hdout)
  | enca addr acmd => exact gate_ending (encodeAscii_ending addr acmd hres)
  | decab => exact gate_ending (decodeAscii_ending hres id)
  | decb | deca | rdx | rdb | pingReq | weightReq | pingAck | weightResp => cases hi

/-- Settles O18: accept clears the results and the operation ends in its step. -/
theorem pureOperationsCompleteAtAccept : Obligations.PureOperationsCompleteAtAccept := by
  intro i s hi _
  exact ⟨_, exec_eq i s, (operation_ending_of_isPure hi rfl rfl).completed⟩

end Sys2Proof.Machine
end

section
/-! The invariant of an operation in flight, and how it is kept from accept to the end. -/

namespace Sys2Proof.Machine

open Sys2Proof.Expected

/-- The part of Inv that speaks of fields no operation writes once it is accepted. -/
structure Carried (s : State) : Prop where
  config : ConfigFromParams s
  din : s.din.length ≤ Config.pDinMax
  dinSnap : s.dinSnap.length ≤ Config.pDinMax

theorem Carried.of_frame {s t : State} (h : SameFrame s t) (hs : Carried s) : Carried t := by
  obtain ⟨⟨hlegal, hvar, hhdr, hmax⟩, hdin, hsnap⟩ := hs
  refine ⟨⟨?_, ?_, ?_, ?_⟩, ?_, ?_⟩
  · rwa [h.params]
  · rwa [h.cfgVariant, h.params]
  · rwa [h.cfgHeader, h.params]
  · rwa [h.cfgAsciiMax, h.params]
  · rwa [h.din]
  · rwa [h.dinSnap]

theorem Inv.carried {s : State} (h : Inv s) : Carried s := by
  obtain ⟨hdin, hsnap, -⟩ := h.buffers
  exact ⟨h.config, hdin, hsnap⟩

/-- The bound of the bounded reads is legal (R25). -/
theorem Inv.asciiMaxLegal {s : State} (h : Inv s) : asciiMaxLegal s.cfgAsciiMax = true := by
  obtain ⟨hlegal, -, -, hmax⟩ := h.config
  rwa [hmax]

theorem Inv.phase_idle {s : State} (h : Inv s) (hbusy : s.status.busy = false) : s.phase = .idle := by
  obtain ⟨-, hphase, -⟩ := h.status
  exact hphase.mpr hbusy

/-- The rest of Inv while BUSY = 1: what the read in flight has gathered. -/
structure InFlight (s : State) : Prop where
  status : s.status = Status.inFlight
  phase : s.phase ≠ .idle
  dout : s.dout = []
  res : s.res = Results.zero
  body : s.bodybuf.length ≤ 65535
  hdr : s.hdrbuf = [] ∨ s.hdrbuf.length = 3
  crc : s.crcbuf.length ≤ 2
  pending : ReadPending s
  decb : DecbProgress s
  reads : ReadProgress s

/-- RXBUF holds less than a read_exact asks for (R30, R181). -/
theorem InFlight.rxbuf_length {s : State} (h : InFlight s) : s.rxbuf.length ≤ 65535 := by
  obtain ⟨hexact, hbounded⟩ := h.pending
  by_cases hx : exactPhase s.phase = true
  · have := hexact hx
    omega
  · have hp : s.phase = .aRead ∨ s.phase = .rRead := by
      cases hp : s.phase <;> simp_all [h.phase]
    simp [hbounded hp]

theorem inv_of_inFlight {s : State} (hc : Carried s) (h : InFlight s) : Inv s where
  config := hc.config
  status := by simp [StatusLegal, h.status, h.phase]
  buffers := ⟨hc.din, hc.dinSnap, by simp [h.dout], h.rxbuf_length, h.body, h.hdr, h.crc⟩
  idle := fun hp => absurd hp h.phase
  results := by simp [ResultsLegal, h.status, h.dout, h.res, Results.zero]
  pending := h.pending
  decb := h.decb
  reads := h.reads

theorem Inv.inFlight {s : State} (h : Inv s) (hbusy : s.status.busy = true) : InFlight s := by
  obtain ⟨hnot, hphase, herr, -⟩ := h.status
  obtain ⟨-, -, -, -, hbody, hhdr, hcrc⟩ := h.buffers
  obtain ⟨hnone, -⟩ := h.results
  have hdone : s.status.done = false := by simpa [hbusy] using hnot
  obtain ⟨hdout, hres⟩ := hnone hdone
  exact
    { status := by
        have herr := herr hdone
        cases hst : s.status
        simp_all [Status.inFlight]
      phase := by simp [hphase, hbusy]
      dout := hdout, res := hres, body := hbody, hdr := hhdr, crc := hcrc
      pending := h.pending, decb := h.decb, reads := h.reads }

/-- An operation's end has the invariant. -/
theorem inv_of_ending {t : State} (hc : Carried t) (h : Ending t) : Inv t := by
  cases h with
  | failed e s hok hconn =>
    exact
      { config := hc.config
        status := by simp [StatusLegal, hconn]
        buffers := ⟨hc.din, hc.dinSnap, by simp⟩
        idle := by simp [IdleClean]
        results := by simp +contextual [ResultsLegal, hok, Results.zero]
        pending := by simp [ReadPending]
        decb := by simp [DecbProgress]
        reads := by simp [ReadProgress] }
  | finished s hfit =>
    obtain ⟨hdout, hcode, hwexp, hvscale, hlen⟩ := hfit hc.dinSnap
    exact
      { config := hc.config
        status := by simp [StatusLegal]
        buffers := ⟨hc.din, hc.dinSnap, hdout, by simp⟩
        idle := by simp [IdleClean]
        results := ⟨by simp, by simp, fun _ => hcode, hwexp, hvscale, hlen⟩
        pending := by simp [ReadPending]
        decb := by simp [DecbProgress]
        reads := by simp [ReadProgress] }

/-- The operation is in flight or has ended, as the invariant wants it. -/
def GoesOn (t : State) : Prop := InFlight t ∨ Ending t

theorem inv_of_goesOn {t : State} (hc : Carried t) (h : GoesOn t) : Inv t :=
  h.elim (inv_of_inFlight hc) (inv_of_ending hc)

end Sys2Proof.Machine
end

section
/-! Each answer to a read and each accept leaves an operation in flight or ended, as the invariant wants it. -/

namespace Sys2Proof.Machine

open Sys2Proof.Expected

/-! ## read_exact (R180) -/

/-- A read_exact asks for what it lacks (R180). -/
theorem requestSize_of_exact {s : State} (hx : exactPhase s.phase = true) :
    requestSize s = s.need.toNat - s.rxbuf.length := by
  unfold requestSize
  split <;> simp_all

/-- A read_exact that an answer does not end keeps what InFlight says; one whose bytes are complete goes on as its continuation
does. -/
theorem exactAnswer_goesOn {k : List Byte → State → State} {ans : Answer} {s : State} (hs : InFlight s)
    (hx : exactPhase s.phase = true)
    (hans : ∀ bytes, ans = .chunk bytes → bytes.length ≤ requestSize s)
    (hk : ∀ bytes, bytes.length = s.need.toNat → GoesOn (k bytes { s with rxbuf := bytes })) :
    GoesOn (exactAnswer k ans s) := by
  obtain ⟨hlacks, -⟩ := hs.pending
  rcases exactAnswer_cases (k := k) (ans := ans) (s := s) rfl with
    ⟨bytes, -, hless, h⟩ | ⟨bytes, hchunk, hfull, h⟩ | ⟨-, h⟩ | ⟨-, h⟩
  · rw [h]
    refine .inl { hs with pending := ⟨fun _ => hless, fun hp => ?_⟩ }
    rcases hp with hp | hp <;> rw [hp] at hx <;> cases hx
  · rw [h]
    have hsize := requestSize_of_exact hx ▸ hans bytes hchunk
    have hlt := hlacks hx
    refine hk _ (Nat.le_antisymm ?_ hfull)
    rw [List.length_append]
    omega
  · rw [h]; exact .inr (.failed _ _ nofun nofun)
  · rw [h]; exact .inr (.failed _ _ nofun nofun)

/-! ## DECB's continuations (R124): each starts the next read or ends. RXBUF is overwritten in any case. -/

theorem decbAfterHeader_goesOn {s : State} (hs : InFlight s) (hp : s.phase = .bHdr) (hdr rx : List Byte) :
    GoesOn (decbAfterHeader hdr { s with rxbuf := rx }) := by
  obtain ⟨hlatch, -⟩ := hs.decb
  simp only [decbAfterHeader]
  split
  · exact .inr (.failed _ _ nofun nofun)
  · next hsame =>
    have hhdr : hdr = headerBytes s.cfgHeader := by simpa using hsame
    exact .inl
      { hs with
        phase := nofun
        hdr := .inr (congrArg List.length hhdr)
        pending := by simp [ReadPending]
        decb := ⟨fun _ => hlatch (by simp [hp]), nofun, fun _ => ⟨rfl, hhdr⟩, nofun, nofun⟩
        reads := ⟨nofun, nofun, nofun⟩ }

theorem decbAfterBody_goesOn {s : State} (hs : InFlight s) (hp : s.phase = .bBody) {body : List Byte} (rx : List Byte)
    (hbody : body.length = s.need.toNat) : GoesOn (decbAfterBody body { s with rxbuf := rx }) := by
  obtain ⟨hlatch, -, -, hbBody, -⟩ := hs.decb
  obtain ⟨hneed, hhdr⟩ := hbBody hp
  exact .inl
    { hs with
      phase := nofun
      body := by
        show body.length ≤ 65535
        omega
      pending := by simp [ReadPending, decbAfterBody]
      decb := ⟨fun _ => hlatch (by simp [hp]), nofun, nofun, nofun, fun _ => ⟨rfl, hhdr, hneed ▸ hbody⟩⟩
      reads := ⟨nofun, nofun, nofun⟩ }

theorem decbAfterLength_goesOn {s : State} (hs : InFlight s) (hp : s.phase = .bLen) (lb rx : List Byte) :
    GoesOn (decbAfterLength lb { s with rxbuf := rx }) := by
  obtain ⟨hlatch, -, hbLen, -, -⟩ := hs.decb
  obtain ⟨-, hhdr⟩ := hbLen hp
  have hlatch := hlatch (by simp [hp])
  simp only [decbAfterLength]
  split
  · next hzero =>
    exact .inl
      { hs with
        phase := nofun
        body := by simp [decbAfterBody]
        pending := by simp [ReadPending, decbAfterBody]
        decb := ⟨fun _ => hlatch, nofun, nofun, nofun, fun _ => ⟨rfl, hhdr, by simp [decbAfterBody, hzero]⟩⟩
        reads := ⟨nofun, nofun, nofun⟩ }
  · next hpos =>
    have hlen : 0 < (rdLe16 lb 0).toNat := Nat.pos_of_ne_zero fun h => hpos (BitVec.eq_of_toNat_eq h)
    exact .inl
      { hs with
        phase := nofun
        pending := ⟨fun _ => hlen, nofun⟩
        decb := ⟨fun _ => hlatch, nofun, nofun, fun _ => ⟨rfl, hhdr⟩, nofun⟩
        reads := ⟨nofun, nofun, nofun⟩ }

theorem decbAfterCrc_goesOn {s : State} (hs : InFlight s) (cb rx : List Byte) :
    GoesOn (decbAfterCrc cb { s with rxbuf := rx }) :=
  .inr (checkBinary_ending _ _ _ hs.body hs.res)

/-! ## The answer to whatever read is pending (R181) -/

/-- No request is longer than a u16 counts. -/
theorem requestSize_le (s : State) : requestSize s ≤ 65535 := by
  unfold requestSize
  split <;> omega

theorem decaAnswer_goesOn {ans : Answer} {s : State} (hs : InFlight s)
    (hans : ∀ bytes, ans = .chunk bytes → bytes.length ≤ Config.pDinMax) : GoesOn (decaAnswer ans s) := by
  cases ans with
  | chunk bytes => exact .inr (decodeAscii_ending hs.res fun _ => hans bytes rfl)
  | closed => exact .inr (decodeAscii_ending (buf := []) hs.res fun _ => Nat.zero_le _)
  | timedOut => exact .inr (.failed _ _ nofun nofun)

theorem rdbAnswer_goesOn {ans : Answer} {s : State} (hs : InFlight s)
    (hans : ∀ bytes, ans = .chunk bytes → bytes.length ≤ Config.pDinMax) : GoesOn (rdbAnswer ans s) := by
  cases ans with
  | chunk bytes => exact .inr (rdxDone_ending hs.res (hans bytes rfl))
  | closed => exact .inr (rdxDone_ending hs.res (Nat.zero_le _))
  | timedOut => exact .inr (.failed _ _ nofun nofun)

theorem takeAnswer_goesOn {ans : Answer} {s : State} (hs : InFlight s)
    (hans : ∀ bytes, ans = .chunk bytes → bytes.length ≤ requestSize s) : GoesOn (takeAnswer ans s) := by
  have hmax : 65535 ≤ Config.pDinMax := by decide
  have hfits : ∀ bytes, ans = .chunk bytes → bytes.length ≤ Config.pDinMax := fun bytes hb =>
    ((hans bytes hb).trans (requestSize_le s)).trans hmax
  unfold takeAnswer
  split
  next hp => exact absurd hp hs.phase
  next hp => exact exactAnswer_goesOn hs (by simp [hp]) hans fun b _ => decbAfterHeader_goesOn hs hp b b
  next hp => exact exactAnswer_goesOn hs (by simp [hp]) hans fun b _ => decbAfterLength_goesOn hs hp b b
  next hp => exact exactAnswer_goesOn hs (by simp [hp]) hans fun b hb => decbAfterBody_goesOn hs hp b hb
  next hp => exact exactAnswer_goesOn hs (by simp [hp]) hans fun b _ => decbAfterCrc_goesOn hs b b
  next hp =>
    exact exactAnswer_goesOn hs (by simp [hp]) hans fun b hb =>
      .inr (rdxDone_ending hs.res ((hb.trans_le (Nat.le_of_lt_succ s.need.isLt)).trans hmax))
  next => exact decaAnswer_goesOn hs hfits
  next => exact rdbAnswer_goesOn hs hfits

/-- A read step keeps the invariant. -/
theorem readStep_inv {s : State} (d : Draw) (h : Inv s) : Inv (readStep d s) := by
  rcases readStep_cases d s with hsame | ⟨ans, st, henabled, horacle, hans⟩
  · rwa [hsame]
  · have hbusy : s.status.busy = true := by
      unfold readEnabled at henabled
      exact (Bool.and_eq_true_iff.mp henabled).1
    have hs := h.inFlight hbusy
    have hflight : InFlight { s with stream := st } := { hs with }
    have hcarried : Carried { s with stream := st } := { h.carried with }
    rw [hans]
    refine inv_of_goesOn (hcarried.of_frame (takeAnswer_frame _ _)) (takeAnswer_goesOn hflight fun bytes hb => ?_)
    rcases oracle_cases (requestSize_pos h.asciiMaxLegal henabled) horacle with
      ⟨hchunk, -⟩ | ⟨hchunk, -⟩ | ⟨bytes', hchunk, -, hle, -⟩
    · rw [hchunk] at hb; cases hb
    · rw [hchunk] at hb; cases hb
    · rw [hchunk] at hb; cases hb; exact hle

/-! ## accept (R40) -/

/-- A state just after accept, from an idle block (R40). -/
structure Accepted (s : State) : Prop where
  status : s.status = Status.inFlight
  dout : s.dout = []
  res : s.res = Results.zero
  rxbuf : s.rxbuf = []
  hdrbuf : s.hdrbuf = []
  bodybuf : s.bodybuf = []
  crcbuf : s.crcbuf = []

theorem accept_accepted (cw : Word) {s : State} (hclean : IdleClean s) (hp : s.phase = .idle) :
    Accepted (accept cw s) := by
  obtain ⟨-, hrx, hhdr, hbody, hcrc⟩ := hclean hp
  exact ⟨rfl, rfl, rfl, hrx, hhdr, hbody, hcrc⟩

/-- A stream operation that starts its first read is in flight. -/
theorem Accepted.inFlight {s t : State} (hs : Accepted s)
    (hkeep : t.status = s.status ∧ t.dout = s.dout ∧ t.res = s.res ∧ t.hdrbuf = s.hdrbuf ∧ t.bodybuf = s.bodybuf ∧
      t.crcbuf = s.crcbuf)
    (hphase : t.phase ≠ .idle) (hpending : ReadPending t) (hdecb : DecbProgress t) (hreads : ReadProgress t) :
    InFlight t := by
  obtain ⟨hstatus, hdout, hres, hhdr, hbody, hcrc⟩ := hkeep
  exact
    { status := hstatus.trans hs.status
      phase := hphase
      dout := hdout.trans hs.dout
      res := hres.trans hs.res
      body := by simp [hbody, hs.bodybuf]
      hdr := .inl (hhdr.trans hs.hdrbuf)
      crc := by simp [hcrc, hs.crcbuf]
      pending := hpending, decb := hdecb, reads := hreads }

theorem startDecb_goesOn {ev : Bool} {exp : Byte} {s : State} (hs : Accepted s)
    (hcw : s.cmdLatch = encodeE 0x11 ev exp) : GoesOn (gate .binary startDecb s) := by
  unfold gate
  split
  · next hv =>
    have hlatch : s.cmdLatch = encodeE 0x11 (evField s.cmdLatch) (byteField2 s.cmdLatch) := by simp [hcw]
    exact .inl (hs.inFlight ⟨rfl, rfl, rfl, rfl, rfl, rfl⟩ nofun ⟨fun _ => Nat.zero_lt_succ 2, nofun⟩
      ⟨fun _ => ⟨hv, hlatch⟩, fun _ => rfl, nofun, nofun, nofun⟩ ⟨nofun, nofun, nofun⟩)
  · exact .inr (.failed _ _ nofun nofun)

theorem startDeca_goesOn {s : State} (hs : Accepted s) (hcw : s.cmdLatch = encodeZ 0x21) :
    GoesOn (gate .ascii startDeca s) := by
  unfold gate
  split
  · next hv =>
    exact .inl (hs.inFlight ⟨rfl, rfl, rfl, rfl, rfl, rfl⟩ nofun ⟨nofun, fun _ => hs.rxbuf⟩
      ⟨nofun, nofun, nofun, nofun, nofun⟩ ⟨nofun, fun _ => ⟨hv, hcw⟩, nofun⟩)
  · exact .inr (.failed _ _ nofun nofun)

theorem startRdx_goesOn {n : Half} {s : State} (hs : Accepted s) (hcw : s.cmdLatch = encodeN 0x30 n) :
    GoesOn (startRdx n s) := by
  simp only [startRdx]
  split
  · exact .inr (rdxDone_ending hs.res (Nat.zero_le _))
  · next hn =>
    have hpos : 0 < n.toNat := Nat.pos_of_ne_zero fun h => hn (BitVec.eq_of_toNat_eq h)
    exact .inl (hs.inFlight ⟨rfl, rfl, rfl, rfl, rfl, rfl⟩ nofun ⟨fun _ => hpos, nofun⟩
      ⟨nofun, nofun, nofun, nofun, nofun⟩ ⟨fun _ => hcw, nofun, nofun⟩)

/-- After accept every operation is in flight or has ended. -/
theorem operation_goesOn (i : Instr) {s : State} (hs : Accepted s) (hcw : s.cmdLatch = commandWord i) :
    GoesOn (operation i s) := by
  cases i with
  | crca | crcb | encb | decbb | decw | enca | decab =>
    exact .inr (operation_ending_of_isPure rfl hs.res hs.dout)
  | pingReq | weightReq => exact .inr (gate_ending (encodeBinary_ending _ hs.res))
  | decb ev exp => exact startDecb_goesOn hs (hcw.trans (commandWord_decb ev exp))
  | pingAck => exact startDecb_goesOn (ev := true) (exp := 0x51) hs hcw
  | weightResp => exact startDecb_goesOn (ev := true) (exp := 0x10) hs hcw
  | deca => exact startDeca_goesOn hs hcw
  | rdx n => exact startRdx_goesOn hs (hcw.trans (commandWord_rdx n))
  | rdb =>
    exact .inl (hs.inFlight ⟨rfl, rfl, rfl, rfl, rfl, rfl⟩ nofun ⟨nofun, fun _ => hs.rxbuf⟩
      ⟨nofun, nofun, nofun, nofun, nofun⟩ ⟨nofun, nofun, fun _ => hcw⟩)

end Sys2Proof.Machine
end

section
/-! Every step keeps the invariant, the configuration among it. -/

namespace Sys2Proof.Machine

open Sys2Proof.Expected

/-! ## Whose step it is -/

/-- While BUSY = 1 the block's turn does nothing (R270). -/
theorem blockStep_of_busy {s : State} (h : s.status.busy = true) : blockStep s = .next s := by
  unfold blockStep
  split <;> simp_all

/-- An idle block carries out what stands first on its port (R40). -/
theorem blockStep_of_cons {s : State} {a : PortAction} {rest : List PortAction} (hbusy : s.status.busy = false)
    (hport : s.port = a :: rest) : blockStep s = runAction a { s with port := rest } := by
  simp only [blockStep, hbusy, hport]

theorem blockStep_of_nil {s : State} (hport : s.port = []) : blockStep s = .next s := by
  unfold blockStep
  split <;> simp_all

/-- Under a legal configuration an empty sched leaves the step to the block. -/
theorem step_of_nil {s : State} (hc : asciiMaxLegal s.cfgAsciiMax = true) (hs : s.sched = []) : step s = blockStep s := by
  simp only [step, hc, hs, if_true]

/-- Under a legal configuration the head of sched is the step. -/
theorem step_of_cons {s : State} {e : EnvEvent} {rest : List EnvEvent} (hc : asciiMaxLegal s.cfgAsciiMax = true)
    (hs : s.sched = e :: rest) : step s = envMove e { s with sched := rest } := by
  simp only [step, hc, hs, if_true]

/-! ## The block's turn -/

theorem accept_carried (cw : Word) {s : State} (h : Carried s) : Carried (accept cw s) := ⟨h.config, h.din, h.din⟩

/-- A DIN that fits is all the invariant asks of it (R28). -/
theorem Inv.withDin {s : State} (h : Inv s) {bytes : List Byte} (hfits : bytes.length ≤ Config.pDinMax) :
    Inv { s with din := bytes } := by
  obtain ⟨-, hrest⟩ := h.buffers
  exact { h with buffers := ⟨hfits, hrest⟩ }

theorem issuerPrepares_inv (i : Instr) {s : State} (h : Inv s) : Inv (issuerPrepares i s) := by
  cases i with
  | pingReq => exact h.withDin (by decide)
  | weightReq => exact h.withDin (Nat.zero_le _)
  | weightResp => exact { h with }
  | crca | crcb | encb | decb | decbb | decw | enca | deca | decab | rdx | rdb | pingAck => exact h

@[simp] theorem issuerPrepares_phase (i : Instr) (s : State) : (issuerPrepares i s).phase = s.phase := by
  cases i <;> rfl

theorem exec_inv {i : Instr} {s t : State} (h : Inv s) (hbusy : s.status.busy = false) (he : exec i s = .next t) :
    Inv t := by
  rw [exec_eq] at he
  cases he
  have hprep := issuerPrepares_inv i h
  have hidle : (issuerPrepares i s).phase = .idle := by simpa using h.phase_idle hbusy
  exact inv_of_goesOn ((accept_carried _ hprep.carried).of_frame (operation_frame i _))
    (operation_goesOn i (accept_accepted _ hprep.idle hidle) rfl)

theorem acceptIllegal_inv (cw : Word) {s : State} (h : Carried s) : Inv (acceptIllegal cw s) :=
  inv_of_ending ((accept_carried cw h).of_frame (raise_frame _ _)) (.failed _ _ nofun nofun)

theorem blockStep_inv {s t : State} (h : Inv s) (hstep : blockStep s = .next t) : Inv t := by
  rcases blockStep_cases hstep with ⟨rfl, -⟩ | ⟨a, rest, hbusy, -, hrun⟩
  · exact h
  · have hrest : Inv { s with port := rest } := { h with }
    rcases runAction_cases hrun with ⟨-, hfits, rfl⟩ | ⟨w, i, -, -, hexec⟩ | ⟨cw, r, -, -, rfl⟩
    · exact hrest.withDin hfits
    · exact exec_inv hrest hbusy hexec
    · exact acceptIllegal_inv cw hrest.carried

/-! ## Reset and the environment's moves -/

/-- R261: the values of reset satisfy the invariant, whatever the environment holds. -/
theorem resetWith_inv {p : Params} (hlegal : asciiMaxLegal p.asciiMax = true) (port : List PortAction) (stream : Stream)
    (sched : List EnvEvent) : Inv (State.resetWith p port stream sched) where
  config := ⟨hlegal, rfl, rfl, rfl⟩
  status := by simp [StatusLegal, State.resetWith]
  buffers := by simp [State.resetWith]
  idle := fun _ => ⟨rfl, rfl, rfl, rfl, rfl⟩
  results := by simp [ResultsLegal, State.resetWith, Results.zero]
  pending := by simp [ReadPending, State.resetWith]
  decb := by simp [DecbProgress, State.resetWith]
  reads := by simp [ReadProgress, State.resetWith]

theorem envMove_inv {e : EnvEvent} {s t : State} (h : Inv s) (hmove : envMove e s = .next t) : Inv t := by
  rcases envMove_cases hmove with ⟨-, hblock⟩ | ⟨bytes, -, hfits, rfl⟩ | ⟨a, -, rfl⟩ | ⟨d, -, rfl⟩ | ⟨bytes, -, rfl⟩ |
    ⟨bytes, -, rfl⟩ | ⟨-, hlegal, rfl⟩
  · exact blockStep_inv h hblock
  · exact h.withDin hfits
  · exact { h with }
  · exact readStep_inv d h
  · exact { h with }
  · exact { h with }
  · exact resetWith_inv hlegal _ _ _

/-- Settles O54: the block's turn, every answer to a read and every other move of the environment keep the invariant. -/
theorem stepKeepsTheInvariant : Obligations.StepKeepsTheInvariant := by
  intro s t h hstep
  obtain ⟨-, ⟨-, hblock⟩ | ⟨e, rest, -, hmove⟩⟩ := step_cases hstep
  · exact blockStep_inv h hblock
  · have hrest : Inv { s with sched := rest } := { h with }
    exact envMove_inv hrest hmove

/-- Settles O53: the parameters of State.reset are legal. -/
theorem resetSatisfiesTheInvariant : Obligations.ResetSatisfiesTheInvariant :=
  resetWith_inv (by decide) _ _ _

/-! ## The parameters and the configuration -/

theorem issuerPrepares_params (i : Instr) (s : State) : (issuerPrepares i s).params = s.params := by
  cases i <;> rfl

theorem exec_params {i : Instr} {s t : State} (h : exec i s = .next t) : t.params = s.params := by
  rw [exec_eq] at h
  cases h
  rw [(operation_frame i _).params, accept_params, issuerPrepares_params]

theorem blockStep_params {s t : State} (h : blockStep s = .next t) : t.params = s.params := by
  rcases blockStep_cases h with ⟨rfl, -⟩ | ⟨a, rest, -, -, hrun⟩
  · rfl
  · rcases runAction_cases hrun with ⟨-, -, rfl⟩ | ⟨w, i, -, -, hexec⟩ | ⟨cw, r, -, -, rfl⟩
    · rfl
    · exact exec_params (s := { s with port := rest }) hexec
    · rfl

theorem readStep_params (d : Draw) (s : State) : (readStep d s).params = s.params := by
  rcases readStep_cases d s with hsame | ⟨ans, st, -, -, hans⟩
  · rw [hsame]
  · rw [hans, (takeAnswer_frame _ _).params]

theorem envMove_params {e : EnvEvent} {s t : State} (h : envMove e s = .next t) : t.params = s.params := by
  rcases envMove_cases h with ⟨-, hblock⟩ | ⟨_, -, -, rfl⟩ | ⟨_, -, rfl⟩ | ⟨d, -, rfl⟩ | ⟨_, -, rfl⟩ | ⟨_, -, rfl⟩ |
    ⟨-, -, rfl⟩
  · exact blockStep_params hblock
  · rfl
  · rfl
  · exact readStep_params d s
  · rfl
  · rfl
  · rfl

/-- No step changes the parameters (R6, R263). -/
theorem step_params {s t : State} (h : step s = .next t) : t.params = s.params := by
  obtain ⟨-, ⟨-, hblock⟩ | ⟨e, rest, -, hmove⟩⟩ := step_cases h
  · exact blockStep_params hblock
  · exact envMove_params (s := { s with sched := rest }) hmove

/-- Settles O55: no step changes the parameters, and before and after it the invariant makes CFG_* those parameters. -/
theorem noStepChangesTheConfiguration : Obligations.NoStepChangesTheConfiguration := by
  intro s t h hstep
  have hp := step_params hstep
  obtain ⟨-, hvar, hhdr, hmax⟩ := h.config
  obtain ⟨-, hvar', hhdr', hmax'⟩ := (stepKeepsTheInvariant s t h hstep).config
  exact ⟨hp, by rw [hvar', hp, hvar], by rw [hhdr', hp, hhdr], by rw [hmax', hp, hmax]⟩

end Sys2Proof.Machine
end

section
/-! The operation in flight does not see DIN (R28, R60): every answer to a read commutes with a write of DIN. -/

namespace Sys2Proof.Machine

/-- What f does to the state neither reads nor writes DIN. -/
def DinBlind (f : State → State) : Prop := ∀ (s : State) (d : List Byte), f { s with din := d } = { f s with din := d }

theorem raise_dinBlind (e : Err) : DinBlind (raise e) := fun _ _ => rfl

theorem rdxDone_dinBlind (bytes : List Byte) : DinBlind (rdxDone bytes) := fun _ _ => rfl

theorem decbAfterBody_dinBlind (body : List Byte) : DinBlind (decbAfterBody body) := fun _ _ => rfl

theorem decbAfterHeader_dinBlind (hdr : List Byte) : DinBlind (decbAfterHeader hdr) := by
  intro s d
  simp only [decbAfterHeader]
  split <;> rfl

theorem decbAfterLength_dinBlind (lb : List Byte) : DinBlind (decbAfterLength lb) := by
  intro s d
  simp only [decbAfterLength]
  split <;> rfl

theorem checkBinary_dinBlind (ev : Bool) (exp : Byte) (body : List Byte) (rx : Half) :
    DinBlind (checkBinary ev exp body rx) := by
  intro s d
  unfold checkBinary
  split
  · rfl
  · match ev, body with
    | false, _ => rfl
    | true, [] => rfl
    | true, b :: _ =>
      simp only
      split <;> rfl

theorem decbAfterCrc_dinBlind (cb : List Byte) : DinBlind (decbAfterCrc cb) := fun s d =>
  checkBinary_dinBlind _ _ _ _ { s with crcbuf := cb } d

theorem decodeAscii_dinBlind (buf : List Byte) : DinBlind (decodeAscii buf) := by
  intro s d
  simp only [decodeAscii]
  split
  · rfl
  split
  · rfl
  split
  · rfl
  split <;> rfl

theorem exactAnswer_dinBlind {k : List Byte → State → State} (hk : ∀ bytes, DinBlind (k bytes)) (ans : Answer) :
    DinBlind (exactAnswer k ans) := by
  intro s d
  cases ans with
  | chunk bytes =>
    simp only [exactAnswer]
    split
    · rfl
    · exact hk _ { s with rxbuf := s.rxbuf ++ bytes } d
  | closed => rfl
  | timedOut => rfl

theorem takeAnswer_dinBlind (ans : Answer) : DinBlind (takeAnswer ans) := by
  intro s d
  simp only [takeAnswer]
  split
  · rfl
  · exact exactAnswer_dinBlind decbAfterHeader_dinBlind ans s d
  · exact exactAnswer_dinBlind decbAfterLength_dinBlind ans s d
  · exact exactAnswer_dinBlind decbAfterBody_dinBlind ans s d
  · exact exactAnswer_dinBlind decbAfterCrc_dinBlind ans s d
  · exact exactAnswer_dinBlind rdxDone_dinBlind ans s d
  · cases ans with
    | chunk bytes => exact decodeAscii_dinBlind bytes s d
    | closed => exact decodeAscii_dinBlind [] s d
    | timedOut => rfl
  · cases ans <;> rfl

theorem readStep_dinBlind (draw : Draw) : DinBlind (readStep draw) := by
  intro s d
  have henabled : readEnabled { s with din := d } = readEnabled s := rfl
  have hrequest : requestSize { s with din := d } = requestSize s := rfl
  simp only [readStep, henabled, hrequest]
  split
  · split
    · rfl
    · next st _ => exact takeAnswer_dinBlind _ { s with stream := st } d
  · rfl

/-- A move of the environment on a busy block does the same to every state but for DIN. -/
theorem envMove_din_of_busy {e : EnvEvent} {s t : State} (d : List Byte) (hbusy : s.status.busy = true)
    (h : envMove e s = .next t) : ∃ d', envMove e { s with din := d } = .next { t with din := d' } := by
  rcases envMove_cases h with ⟨rfl, hblock⟩ | ⟨bytes, rfl, hfits, rfl⟩ | ⟨a, rfl, rfl⟩ | ⟨draw, rfl, rfl⟩ |
    ⟨bytes, rfl, rfl⟩ | ⟨bytes, rfl, rfl⟩ | ⟨rfl, hlegal, rfl⟩
  · rw [blockStep_of_busy hbusy] at hblock
    cases hblock
    exact ⟨d, blockStep_of_busy (s := { s with din := d }) hbusy⟩
  · exact ⟨bytes, loadDin_next_iff.mpr ⟨hfits, rfl⟩⟩
  · exact ⟨d, rfl⟩
  · exact ⟨d, congrArg _ (readStep_dinBlind draw s d)⟩
  · exact ⟨d, rfl⟩
  · exact ⟨d, rfl⟩
  · exact ⟨[], applyReset_next_iff.mpr ⟨hlegal, rfl⟩⟩

/-- Settles O57: on a busy block neither the block's turn nor an answer nor another move reads DIN. -/
theorem operationInFlightDoesNotSeeDin : Obligations.OperationInFlightDoesNotSeeDin := by
  intro s t d hbusy hstep
  obtain ⟨hc, ⟨hs, hblock⟩ | ⟨e, rest, hs, hmove⟩⟩ := step_cases hstep
  · rw [blockStep_of_busy hbusy] at hblock
    cases hblock
    exact ⟨d, (step_of_nil (s := { s with din := d }) hc hs).trans (blockStep_of_busy hbusy)⟩
  · rw [step_of_cons (s := { s with din := d }) hc hs]
    exact envMove_din_of_busy (s := { s with sched := rest }) d hbusy hmove

end Sys2Proof.Machine
end

section
/-! The remaining statements about single steps: where the machine stops, what the block's turn runs, STATUS and finish. -/

namespace Sys2Proof.Machine

open Sys2Proof.Expected

/-! ## Where the machine stops -/

/-- A wire code that decodes to nothing is none of R81's four. -/
theorem wireCode_ne_of_error {code : Byte} {r : DecodeReject} (h : decode (.wire code) = .error r) :
    code ≠ 0x91 ∧ code ≠ 0xA0 ∧ code ≠ 0x51 ∧ code ≠ 0x10 := by
  refine ⟨?_, ?_, ?_, ?_⟩ <;> rintro rfl <;> cases h

/-- An action of the port answers a next state where DOUT fits DIN, or it is a wire code that is no pseudo-operation. -/
theorem runAction_next_or_unlisted {a : PortAction} {s : State} (hfits : s.dout.length ≤ Config.pDinMax) :
    (∃ t, runAction a s = .next t) ∨
      ∃ code r, a = .word (.wire code) ∧ decode (.wire code) = .error r ∧
        runAction a s = .refused (.unlistedWireCode code) := by
  cases a with
  | copyDout => exact .inl ⟨_, loadDin_next_iff.mpr ⟨hfits, rfl⟩⟩
  | word w =>
    cases hd : decode w with
    | ok i => exact .inl ⟨_, (runWord_of_ok hd).trans (exec_eq i s)⟩
    | error r =>
      cases w with
      | command cw => exact .inl ⟨_, runWord_of_illegal hd⟩
      | wire code => exact .inr ⟨code, r, rfl, hd, runWord_of_unlisted hd⟩

/-- The block's turn answers a next state, or an idle block finds a wire code that is no pseudo-operation. -/
theorem blockStep_next_or_unlisted {s : State} (hfits : s.dout.length ≤ Config.pDinMax) :
    (∃ t, blockStep s = .next t) ∨
      ∃ code rest, s.status.busy = false ∧ s.port = .word (.wire code) :: rest ∧
        code ≠ 0x91 ∧ code ≠ 0xA0 ∧ code ≠ 0x51 ∧ code ≠ 0x10 ∧ blockStep s = .refused (.unlistedWireCode code) := by
  cases hbusy : s.status.busy with
  | true => exact .inl ⟨s, blockStep_of_busy hbusy⟩
  | false =>
    cases hport : s.port with
    | nil => exact .inl ⟨s, blockStep_of_nil hport⟩
    | cons a rest =>
      rw [blockStep_of_cons hbusy hport]
      rcases runAction_next_or_unlisted (a := a) (s := { s with port := rest }) hfits with
        hnext | ⟨code, r, rfl, hd, hrefused⟩
      · exact .inl hnext
      · obtain ⟨h91, hA0, h51, h10⟩ := wireCode_ne_of_error hd
        exact .inr ⟨code, rest, rfl, rfl, h91, hA0, h51, h10, hrefused⟩

/-- Settles O58: exec always answers, DOUT fits DIN and the parameters are legal, so two moves of the environment are left. -/
theorem onlyTheEnvironmentStopsTheMachine : Obligations.OnlyTheEnvironmentStopsTheMachine := by
  intro s h
  obtain ⟨hlegal, -⟩ := h.config
  obtain ⟨-, -, hdout, -⟩ := h.buffers
  have hc := h.asciiMaxLegal
  cases hs : s.sched with
  | nil =>
    rw [step_of_nil hc hs]
    exact (blockStep_next_or_unlisted hdout).imp_right .inr
  | cons e rest =>
    rw [step_of_cons hc hs]
    cases e with
    | blockTurn => exact (blockStep_next_or_unlisted (s := { s with sched := rest }) hdout).imp_right .inr
    | din bytes =>
      by_cases hfits : bytes.length ≤ Config.pDinMax
      · exact .inl ⟨_, loadDin_next_iff.mpr ⟨hfits, rfl⟩⟩
      · exact .inr (.inl ⟨bytes, rest, rfl, Nat.lt_of_not_le hfits, if_neg hfits⟩)
    | offer | answer | connect | arrive => exact .inl ⟨_, rfl⟩
    | reset => exact .inl ⟨_, applyReset_next_iff.mpr ⟨hlegal, rfl⟩⟩

/-! ## Illegal configurations -/

theorem asciiMaxLegal_eq_false {n : Half} (h : n.toNat < 6) : asciiMaxLegal n = false :=
  Bool.eq_false_iff.mpr fun hlegal => Nat.not_le_of_lt h ((asciiMaxLegal_iff n).mp hlegal)

/-- Settles O7: step's own check and reset's check give the same refusal. -/
theorem illegalConfigurationIsRefused : Obligations.IllegalConfigurationIsRefused := by
  refine ⟨fun s h => ?_, fun s es h hs => ?_⟩
  · simp only [step, asciiMaxLegal_eq_false h, Bool.false_eq_true, if_false]
  · cases hc : asciiMaxLegal s.cfgAsciiMax with
    | true =>
      rw [step_of_cons hc hs]
      simp only [envMove, applyReset, asciiMaxLegal_eq_false h, Bool.false_eq_true, if_false]
    | false => simp only [step, hc, Bool.false_eq_true, if_false]

/-! ## STATUS and completion -/

/-- STATUS bit by bit: ERR below bit 8, then BUSY and DONE, then zeros (R26). -/
theorem Status.word_getLsbD (st : Status) (i : Nat) :
    st.word.getLsbD i =
      if i < 8 then st.err.code.getLsbD i else if i = 8 then st.busy else if i = 9 then st.done else false := by
  by_cases h : i < 10
  · interval_cases i <;> simp [Status.word]
  · have herr : st.err.code.getLsbD i = false := BitVec.getLsbD_of_ge _ _ (by omega)
    have hbusy : (BitVec.ofBool st.busy).getLsbD (i - 8) = false := BitVec.getLsbD_of_ge _ _ (by omega)
    have hdone : (BitVec.ofBool st.done).getLsbD (i - 9) = false := BitVec.getLsbD_of_ge _ _ (by omega)
    have hrange : ¬ i < 8 ∧ i ≠ 8 ∧ i ≠ 9 := by omega
    simp [Status.word, herr, hbusy, hdone, hrange]

/-- Settles O8, from STATUS bit by bit. -/
theorem statusRegisterLayout : Obligations.StatusRegisterLayout := by
  intro st
  refine ⟨BitVec.eq_of_getLsbD_eq fun i hi => ?_, ?_, ?_, BitVec.eq_of_getLsbD_eq fun i hi => ?_⟩
  · simp [Status.word_getLsbD, hi]
  · exact st.word_getLsbD 8
  · exact st.word_getLsbD 9
  · have h8 : ¬ 10 + i < 8 := by omega
    have h9 : 10 + i ≠ 8 ∧ 10 + i ≠ 9 := by omega
    simp [Status.word_getLsbD, h8, h9]

/-- Settles O10: finish's record is the one R41 lists. -/
theorem finishCompletesWithOk : Obligations.FinishCompletesWithOk := fun _ => rfl

/-! ## The block's turn -/

/-- On its turn an idle block carries out what stands first on its port. -/
theorem step_of_turnAt {s : State} {a : PortAction} {rest : List PortAction} {es : List EnvEvent} (h : TurnAt s es)
    (hport : s.port = a :: rest) : step s = runAction a { s with port := rest, sched := es } := by
  obtain ⟨hmax, hbusy, hs⟩ := h
  rw [step_of_cons ((asciiMaxLegal_iff _).mpr hmax) hs]
  exact blockStep_of_cons (s := { s with sched := es }) hbusy hport

/-- Settles O13: the block's turn runs the word first on the port, which decodes. -/
theorem stepRunsTheDecodedInstruction : Obligations.StepRunsTheDecodedInstruction := by
  intro s w i rest hmax hbusy hport hd
  refine ⟨fun hs => ?_, fun es hs => ?_⟩
  · rw [step_of_nil ((asciiMaxLegal_iff _).mpr hmax) hs, blockStep_of_cons hbusy hport]
    exact runWord_of_ok hd
  · rw [step_of_turnAt ⟨hmax, hbusy, hs⟩ hport]
    exact runWord_of_ok hd

theorem decode_of_decodeTableWord {nbits w : Nat} {i : Instr} (h : decodeTableWord nbits w = some i) :
    decode (portWordOf nbits w) = .ok i := by
  unfold decodeTableWord at h
  split at h
  · next hd => rw [hd, Option.some.inj h]
  · cases h

/-- Settles O14: the placed word stands first on the port of an idle block that has its turn. -/
theorem fetchWordRunsNext : Obligations.FetchWordRunsNext := by
  intro s nbits w i hmax hd
  have hturn : TurnAt (s.withFetchWord nbits w) s.sched := ⟨hmax, rfl, rfl⟩
  rw [step_of_turnAt hturn rfl]
  exact runWord_of_ok (decode_of_decodeTableWord hd)

/-- Settles O15: the step is acceptIllegal, and on an idle block with Inv the sequencing state it clears is clear already. -/
theorem illegalWordEndsWithIllegalOp : Obligations.IllegalWordEndsWithIllegalOp := by
  intro s cw r rest es hturn hport hd
  have hstep : step s = .next (failed { s with port := rest, sched := es } cw .illegalOp 0) := by
    rw [step_of_turnAt hturn hport]
    exact runWord_of_illegal hd
  refine ⟨hstep, fun h => ?_⟩
  obtain ⟨-, hbusy, -⟩ := hturn
  have hidle := h.phase_idle hbusy
  obtain ⟨hneed, hrx, hhdr, hbody, hcrc⟩ := h.idle hidle
  rw [hstep]
  simp only [failed, hidle, hneed, hrx, hhdr, hbody, hcrc]
  rfl

end Sys2Proof.Machine
end

section
/-! The stream and the reads (R55 to R59): only an answer to an enabled read takes bytes from the stream, a busy block accepts
nothing, and a chunk that leaves bytes missing only grows RXBUF. -/

namespace Sys2Proof.Machine

/-! ## A chunk that leaves bytes missing -/

/-- A read_exact that still lacks bytes keeps the chunk and asks again, whatever would go on from it (R180). -/
theorem exactAnswer_chunk_of_lacking (k : List Byte → State → State) {bytes : List Byte} {s : State}
    (h : s.rxbuf.length + bytes.length < s.need.toNat) :
    exactAnswer k (.chunk bytes) s = { s with rxbuf := s.rxbuf ++ bytes } :=
  if_pos (List.length_append ▸ h)

/-- In every read_exact phase the answer goes to read_exact, with one continuation or another (R181). -/
theorem takeAnswer_of_exact (ans : Answer) {s : State} (hx : exactPhase s.phase = true) :
    ∃ k, takeAnswer ans s = exactAnswer k ans s := by
  unfold takeAnswer
  cases hp : s.phase with
  | idle | aRead | rRead => simp [hp] at hx
  | bHdr | bLen | bBody | bCrc | xRead => exact ⟨_, rfl⟩

/-- Settles O38: read_exact still lacks bytes, so its continuation does not run. -/
theorem partialChunkIsAppended : Obligations.PartialChunkIsAppended := by
  intro bytes s hx hlacks
  obtain ⟨k, hk⟩ := takeAnswer_of_exact (.chunk bytes) hx
  rw [hk]
  exact exactAnswer_chunk_of_lacking k hlacks

/-! ## What the block's turn and a read step do to the stream -/

theorem issuerPrepares_stream (i : Instr) (s : State) : (issuerPrepares i s).stream = s.stream := by
  cases i <;> rfl

theorem exec_stream {i : Instr} {s t : State} (h : exec i s = .next t) : t.stream = s.stream := by
  rw [exec_eq] at h
  cases h
  rw [(operation_frame i _).stream, accept_stream, issuerPrepares_stream]

/-- The block's turn reads nothing: bytes come in read steps only (R181). -/
theorem blockStep_stream {s t : State} (h : blockStep s = .next t) : t.stream = s.stream := by
  rcases blockStep_cases h with ⟨rfl, -⟩ | ⟨a, rest, -, -, hrun⟩
  · rfl
  · rcases runAction_cases hrun with ⟨-, -, rfl⟩ | ⟨w, i, -, -, hexec⟩ | ⟨cw, r, -, -, rfl⟩
    · rfl
    · exact exec_stream (s := { s with port := rest }) hexec
    · rfl

/-- The stream st may become st' in a step of s that brings no bytes: Closed stays answered, and unread bytes leave only as a
chunk of the enabled read (R55, R56). -/
def StreamOnlyRead (s : State) (st' : Stream) : Prop :=
  (s.stream.shut = true → st'.shut = true) ∧
    (st'.unread = s.stream.unread ∨
      ∃ bytes, readEnabled s = true ∧ s.stream.shut = false ∧ 1 ≤ bytes.length ∧ bytes.length ≤ requestSize s ∧
        s.stream.unread = bytes ++ st'.unread)

/-- A read step takes at most one chunk of what it asks for, and opens no closed stream. -/
theorem readStep_streamOnlyRead (d : Draw) {s : State} (hc : asciiMaxLegal s.cfgAsciiMax = true) :
    StreamOnlyRead s (readStep d s).stream := by
  rcases readStep_cases d s with hsame | ⟨ans, st, henabled, horacle, hans⟩
  · rw [hsame]
    exact ⟨id, .inl rfl⟩
  · rw [hans, (takeAnswer_frame _ _).stream]
    rcases oracle_cases (requestSize_pos hc henabled) horacle with
      ⟨-, rfl⟩ | ⟨-, rfl⟩ | ⟨bytes, -, hpos, hle, hopen, hunread, -⟩
    · exact ⟨id, .inl rfl⟩
    · exact ⟨fun _ => rfl, .inl rfl⟩
    · exact ⟨fun hshut => absurd (hshut.symm.trans hopen) nofun, .inr ⟨bytes, henabled, hopen, hpos, hle, hunread⟩⟩

/-- Settles O41: but for a connection and an arrival, only a read step touches the stream. -/
theorem streamBytesLeaveOnlyAsChunks : Obligations.StreamBytesLeaveOnlyAsChunks := by
  intro s t hstep
  obtain ⟨hc, ⟨-, hblock⟩ | ⟨e, rest, hs, hmove⟩⟩ := step_cases hstep
  · rw [blockStep_stream hblock]
    exact .inr ⟨id, .inl rfl⟩
  · rcases envMove_cases hmove with ⟨-, hblock⟩ | ⟨bytes, -, -, rfl⟩ | ⟨a, -, rfl⟩ | ⟨d, rfl, rfl⟩ | ⟨bytes, rfl, -⟩ |
      ⟨bytes, rfl, -⟩ | ⟨-, -, rfl⟩
    · rw [blockStep_stream hblock]
      exact .inr ⟨id, .inl rfl⟩
    · exact .inr ⟨id, .inl rfl⟩
    · exact .inr ⟨id, .inl rfl⟩
    · obtain ⟨hshut, hsame | ⟨bytes, hread⟩⟩ := readStep_streamOnlyRead d (s := { s with sched := rest }) hc
      · exact .inr ⟨hshut, .inl hsame⟩
      · exact .inr ⟨hshut, .inr ⟨d, rest, bytes, hs, hread⟩⟩
    · exact .inl ⟨bytes, rest, .inl hs⟩
    · exact .inl ⟨bytes, rest, .inr hs⟩
    · exact .inr ⟨id, .inl rfl⟩

/-! ## The port and the latches while BUSY = 1 -/

/-- A read step writes neither the port nor the latches of accept (R28, R33, R270). -/
theorem readStep_port_latches (d : Draw) (s : State) :
    (readStep d s).port = s.port ∧ (readStep d s).cmdLatch = s.cmdLatch ∧ (readStep d s).dinSnap = s.dinSnap := by
  rcases readStep_cases d s with hsame | ⟨ans, st, -, -, hans⟩
  · rw [hsame]
    exact ⟨rfl, rfl, rfl⟩
  · rw [hans]
    have hframe := takeAnswer_frame ans { s with stream := st }
    exact ⟨hframe.port, hframe.cmdLatch, hframe.dinSnap⟩

/-- A port that stays holds what it held. -/
theorem port_held_of_eq {s t : State} (h : t.port = s.port) : ∃ more, t.port = s.port ++ more :=
  ⟨[], h.trans (List.append_nil _).symm⟩

/-- On a busy block every move keeps what the port holds, in its order, and every move but reset keeps the latches: the block's
turn does nothing, and an offer goes to the end of the port. -/
theorem envMove_port_latches_of_busy {e : EnvEvent} {s t : State} (hbusy : s.status.busy = true)
    (h : envMove e s = .next t) :
    (∃ more, t.port = s.port ++ more) ∧ ((t.cmdLatch = s.cmdLatch ∧ t.dinSnap = s.dinSnap) ∨ e = .reset) := by
  rcases envMove_cases h with ⟨-, hblock⟩ | ⟨bytes, -, -, rfl⟩ | ⟨a, -, rfl⟩ | ⟨d, -, rfl⟩ | ⟨bytes, -, rfl⟩ |
    ⟨bytes, -, rfl⟩ | ⟨hreset, -, rfl⟩
  · rw [blockStep_of_busy hbusy] at hblock
    cases hblock
    exact ⟨port_held_of_eq rfl, .inl ⟨rfl, rfl⟩⟩
  · exact ⟨port_held_of_eq rfl, .inl ⟨rfl, rfl⟩⟩
  · exact ⟨⟨[a], rfl⟩, .inl ⟨rfl, rfl⟩⟩
  · obtain ⟨hport, hlatches⟩ := readStep_port_latches d s
    exact ⟨port_held_of_eq hport, .inl hlatches⟩
  · exact ⟨port_held_of_eq rfl, .inl ⟨rfl, rfl⟩⟩
  · exact ⟨port_held_of_eq rfl, .inl ⟨rfl, rfl⟩⟩
  · exact ⟨port_held_of_eq rfl, .inr hreset⟩

/-- Settles O56: the block's turn does nothing while BUSY = 1, and the environment's moves are envMove_port_latches_of_busy. -/
theorem noAcceptWhileBusy : Obligations.NoAcceptWhileBusy := by
  intro s t hbusy hstep
  obtain ⟨-, ⟨-, hblock⟩ | ⟨e, rest, hs, hmove⟩⟩ := step_cases hstep
  · rw [blockStep_of_busy hbusy] at hblock
    cases hblock
    exact ⟨port_held_of_eq rfl, .inl ⟨rfl, rfl⟩⟩
  · obtain ⟨hport, hlatches | rfl⟩ := envMove_port_latches_of_busy (s := { s with sched := rest }) hbusy hmove
    · exact ⟨hport, .inl hlatches⟩
    · exact ⟨hport, .inr ⟨rest, hs⟩⟩

end Sys2Proof.Machine
end

section
/-! The decoder and the encoder in numbers: the fields and the reserved bits of a command word (R71 to R74), and that decode
and encode are inverse to each other. -/

namespace Sys2Proof.Machine

open Sys2Proof.Expected

/-! ## The fields of a word as numbers (R71, R72) -/

theorem opField_toNat (cw : Word) : (opField cw).toNat = cw.toNat % 256 := by
  simp [opField]

theorem byteField1_toNat (cw : Word) : (byteField1 cw).toNat = cw.toNat / 256 % 256 := by
  simp [byteField1, Nat.shiftRight_eq_div_pow]

theorem byteField2_toNat (cw : Word) : (byteField2 cw).toNat = cw.toNat / 65536 % 256 := by
  simp [byteField2, Nat.shiftRight_eq_div_pow]

theorem halfField_toNat (cw : Word) : (halfField cw).toNat = cw.toNat / 256 % 65536 := by
  simp [halfField, Nat.shiftRight_eq_div_pow]

theorem evField_toNat (cw : Word) : (evField cw).toNat = cw.toNat / 256 % 2 := by
  rw [evField, ← BitVec.testBit_toNat, Nat.toNat_testBit]

/-- A slice of a word is 0 where its digits are. -/
theorem extractLsb'_eq_zero_iff (cw : Word) (start len : Nat) :
    cw.extractLsb' start len = 0 ↔ cw.toNat / 2 ^ start % 2 ^ len = 0 := by
  rw [← BitVec.toNat_inj, BitVec.extractLsb'_toNat, Nat.shiftRight_eq_div_pow]
  simp

/-- Bits 31:8 of a word are 0 in format Z. -/
theorem reservedZ_iff (cw : Word) : cw.extractLsb' 8 24 = 0 ↔ cw.toNat / 2 ^ 8 = 0 := by
  rw [extractLsb'_eq_zero_iff]
  omega

/-- Bits 31:16 of a word are 0 in format B. -/
theorem reservedB_iff (cw : Word) : cw.extractLsb' 16 16 = 0 ↔ cw.toNat / 2 ^ 16 = 0 := by
  rw [extractLsb'_eq_zero_iff]
  omega

/-- Bits 31:24 of a word are 0 in formats E, A and N. -/
theorem reservedHigh_iff (cw : Word) : cw.extractLsb' 24 8 = 0 ↔ cw.toNat / 2 ^ 24 = 0 := by
  rw [extractLsb'_eq_zero_iff]
  omega

/-! ## The encoder's words as numbers (R71) -/

theorem encodeZ_toNat (op : Byte) : (encodeZ op).toNat = op.toNat := by
  rw [encodeZ, BitVec.toNat_setWidth]
  omega

theorem encodeA_toNat (op addr acmd : Byte) :
    (encodeA op addr acmd).toNat = op.toNat + 256 * addr.toNat + 65536 * acmd.toNat := by
  rw [encodeA_eq_ofNat, BitVec.toNat_ofNat]
  omega

theorem encodeB_toNat (op cmd : Byte) : (encodeB op cmd).toNat = op.toNat + 256 * cmd.toNat := by
  rw [encodeB_eq_ofNat, BitVec.toNat_ofNat]
  omega

theorem encodeE_toNat (op : Byte) (ev : Bool) (exp : Byte) :
    (encodeE op ev exp).toNat = op.toNat + 256 * ev.toNat + 65536 * exp.toNat := by
  have hev := ev.toNat_lt
  rw [encodeE_eq_ofNat, BitVec.toNat_ofNat]
  omega

theorem encodeN_toNat (op : Byte) (n : Half) : (encodeN op n).toNat = op.toNat + 256 * n.toNat := by
  rw [encodeN_eq_ofNat, BitVec.toNat_ofNat]
  omega

/-! ## A format's decoder gives back the fields its encoder wrote -/

@[simp] theorem opField_encodeZ (op : Byte) : opField (encodeZ op) = op := by
  apply BitVec.eq_of_toNat_eq
  rw [opField_toNat, encodeZ_toNat]
  omega

@[simp] theorem opField_encodeA (op addr acmd : Byte) : opField (encodeA op addr acmd) = op := by
  apply BitVec.eq_of_toNat_eq
  rw [opField_toNat, encodeA_toNat]
  omega

@[simp] theorem opField_encodeB (op cmd : Byte) : opField (encodeB op cmd) = op := by
  rw [encodeB_eq_encodeA, opField_encodeA]

@[simp] theorem opField_encodeE (op : Byte) (ev : Bool) (exp : Byte) : opField (encodeE op ev exp) = op := by
  rw [encodeE_eq_encodeA, opField_encodeA]

@[simp] theorem opField_encodeN (op : Byte) (n : Half) : opField (encodeN op n) = op := by
  apply BitVec.eq_of_toNat_eq
  rw [opField_toNat, encodeN_toNat]
  omega

theorem byteField1_encodeA (op addr acmd : Byte) : byteField1 (encodeA op addr acmd) = addr := by
  apply BitVec.eq_of_toNat_eq
  rw [byteField1_toNat, encodeA_toNat]
  omega

theorem byteField1_encodeB (op cmd : Byte) : byteField1 (encodeB op cmd) = cmd := by
  rw [encodeB_eq_encodeA, byteField1_encodeA]

theorem byteField2_encodeA (op addr acmd : Byte) : byteField2 (encodeA op addr acmd) = acmd := by
  apply BitVec.eq_of_toNat_eq
  rw [byteField2_toNat, encodeA_toNat]
  omega

theorem halfField_encodeN (op : Byte) (n : Half) : halfField (encodeN op n) = n := by
  apply BitVec.eq_of_toNat_eq
  rw [halfField_toNat, encodeN_toNat]
  omega

theorem decodeZ_encodeZ (op : Byte) (i : Instr) : decodeZ (encodeZ op) i = .ok i := by
  refine if_pos ((reservedZ_iff _).mpr ?_)
  rw [encodeZ_toNat]
  omega

theorem decodeB_encodeB (op cmd : Byte) (f : Byte → Instr) : decodeB (encodeB op cmd) f = .ok (f cmd) := by
  have hreserved : (encodeB op cmd).toNat / 2 ^ 16 = 0 := by
    rw [encodeB_toNat]
    omega
  rw [decodeB, if_pos ((reservedB_iff _).mpr hreserved), byteField1_encodeB]

theorem decodeA_encodeA (op addr acmd : Byte) (f : Byte → Byte → Instr) :
    decodeA (encodeA op addr acmd) f = .ok (f addr acmd) := by
  have hreserved : (encodeA op addr acmd).toNat / 2 ^ 24 = 0 := by
    rw [encodeA_toNat]
    omega
  rw [decodeA, if_pos ((reservedHigh_iff _).mpr hreserved), byteField1_encodeA, byteField2_encodeA]

theorem decodeN_encodeN (op : Byte) (n : Half) (f : Half → Instr) : decodeN (encodeN op n) f = .ok (f n) := by
  have hreserved : (encodeN op n).toNat / 2 ^ 24 = 0 := by
    rw [encodeN_toNat]
    omega
  rw [decodeN, if_pos ((reservedHigh_iff _).mpr hreserved), halfField_encodeN]

/-- R74's reserved bits of a format E word, and EXP = 0 where EV = 0, are what well-formedness asks of the fields. -/
theorem decodeE_encodeE (op : Byte) {ev : Bool} {exp : Byte} (hwf : expectedCodeOk ev exp = true)
    (f : Bool → Byte → Instr) : decodeE (encodeE op ev exp) f = .ok (f ev exp) := by
  have hev := ev.toNat_lt
  have hhigh : (encodeE op ev exp).extractLsb' 24 8 = 0 := by
    rw [reservedHigh_iff, encodeE_toNat]
    omega
  have hlow : (encodeE op ev exp).extractLsb' 9 7 = 0 := by
    rw [extractLsb'_eq_zero_iff, encodeE_toNat]
    omega
  have hexp : ev = false → exp = 0 := by
    rintro rfl
    simpa [expectedCodeOk] using hwf
  rw [decodeE, evField_encodeE, byteField2_encodeE, if_pos ⟨hhigh, hlow, hexp⟩]

/-- Settles O1: the word's opcode selects the instruction's format, and the format's decoder gives back its fields. -/
theorem decodeOfEncodeIsTheInstruction : Obligations.DecodeOfEncodeIsTheInstruction := by
  intro i hwf
  cases i with
  | pingReq | weightReq | pingAck | weightResp => rfl
  | crca | crcb | decw | deca | decab | rdb =>
    simp only [encode, decode, decodeCommand, opField_encodeZ]
    exact decodeZ_encodeZ _ _
  | encb cmd =>
    simp only [encode, decode, decodeCommand, opField_encodeB]
    exact decodeB_encodeB _ _ _
  | decb ev exp | decbb ev exp =>
    simp only [encode, decode, decodeCommand, opField_encodeE]
    exact decodeE_encodeE _ hwf _
  | enca addr acmd =>
    simp only [encode, decode, decodeCommand, opField_encodeA]
    exact decodeA_encodeA _ _ _ _
  | rdx n =>
    simp only [encode, decode, decodeCommand, opField_encodeN]
    exact decodeN_encodeN _ _ _

/-! ## A format's encoder gives back the word its decoder takes -/

theorem decodeZ_ok {cw : Word} {i j : Instr} (h : decodeZ cw j = .ok i) : i = j ∧ encodeZ (opField cw) = cw := by
  unfold decodeZ at h
  split at h
  · next hreserved =>
    rw [reservedZ_iff] at hreserved
    refine ⟨(Except.ok.inj h).symm, BitVec.eq_of_toNat_eq ?_⟩
    rw [encodeZ_toNat, opField_toNat]
    omega
  · cases h

theorem decodeB_ok {cw : Word} {i : Instr} {f : Byte → Instr} (h : decodeB cw f = .ok i) :
    ∃ cmd, i = f cmd ∧ encodeB (opField cw) cmd = cw := by
  unfold decodeB at h
  split at h
  · next hreserved =>
    rw [reservedB_iff] at hreserved
    refine ⟨_, (Except.ok.inj h).symm, BitVec.eq_of_toNat_eq ?_⟩
    rw [encodeB_toNat, opField_toNat, byteField1_toNat]
    omega
  · cases h

theorem decodeA_ok {cw : Word} {i : Instr} {f : Byte → Byte → Instr} (h : decodeA cw f = .ok i) :
    ∃ addr acmd, i = f addr acmd ∧ encodeA (opField cw) addr acmd = cw := by
  unfold decodeA at h
  split at h
  · next hreserved =>
    rw [reservedHigh_iff] at hreserved
    refine ⟨_, _, (Except.ok.inj h).symm, BitVec.eq_of_toNat_eq ?_⟩
    rw [encodeA_toNat, opField_toNat, byteField1_toNat, byteField2_toNat]
    omega
  · cases h

theorem decodeN_ok {cw : Word} {i : Instr} {f : Half → Instr} (h : decodeN cw f = .ok i) :
    ∃ n, i = f n ∧ encodeN (opField cw) n = cw := by
  unfold decodeN at h
  split at h
  · next hreserved =>
    rw [reservedHigh_iff] at hreserved
    refine ⟨_, (Except.ok.inj h).symm, BitVec.eq_of_toNat_eq ?_⟩
    rw [encodeN_toNat, opField_toNat, halfField_toNat]
    omega
  · cases h

theorem decodeE_ok {cw : Word} {i : Instr} {f : Bool → Byte → Instr} (h : decodeE cw f = .ok i) :
    ∃ ev exp, i = f ev exp ∧ expectedCodeOk ev exp = true ∧ encodeE (opField cw) ev exp = cw := by
  unfold decodeE at h
  split at h
  · next hreserved =>
    obtain ⟨hhigh, hlow, hexp⟩ := hreserved
    rw [reservedHigh_iff] at hhigh
    rw [extractLsb'_eq_zero_iff] at hlow
    refine ⟨_, _, (Except.ok.inj h).symm, ?_, BitVec.eq_of_toNat_eq ?_⟩
    · cases hev : evField cw with
      | true => rfl
      | false => simp [expectedCodeOk, hexp hev]
    · rw [encodeE_toNat, opField_toNat, evField_toNat, byteField2_toNat]
      omega
  · cases h

theorem opField_eq_of_toNat {cw : Word} {n : Nat} (h : (opField cw).toNat = n) : opField cw = BitVec.ofNat 8 n := by
  rw [← h, BitVec.ofNat_toNat, BitVec.setWidth_eq]

/-- A command word that decodes is the encoding of a well-formed instruction: its opcode is the row's, and the row's format
gives back the rest. -/
theorem decodeCommand_ok {cw : Word} {i : Instr} (h : decodeCommand cw = .ok i) :
    i.wellFormed = true ∧ encode i = .command cw := by
  unfold decodeCommand at h
  split at h
  case h_12 => cases h
  case h_1 hop | h_2 hop | h_6 hop | h_8 hop | h_9 hop | h_11 hop =>
    obtain ⟨rfl, hcw⟩ := decodeZ_ok h
    rw [opField_eq_of_toNat hop] at hcw
    exact ⟨rfl, congrArg PortWord.command hcw⟩
  case h_3 hop =>
    obtain ⟨cmd, rfl, hcw⟩ := decodeB_ok h
    rw [opField_eq_of_toNat hop] at hcw
    exact ⟨rfl, congrArg PortWord.command hcw⟩
  case h_4 hop | h_5 hop =>
    obtain ⟨ev, exp, rfl, hwf, hcw⟩ := decodeE_ok h
    rw [opField_eq_of_toNat hop] at hcw
    exact ⟨hwf, congrArg PortWord.command hcw⟩
  case h_7 hop =>
    obtain ⟨addr, acmd, rfl, hcw⟩ := decodeA_ok h
    rw [opField_eq_of_toNat hop] at hcw
    exact ⟨rfl, congrArg PortWord.command hcw⟩
  case h_10 hop =>
    obtain ⟨n, rfl, hcw⟩ := decodeN_ok h
    rw [opField_eq_of_toNat hop] at hcw
    exact ⟨rfl, congrArg PortWord.command hcw⟩

/-- A wire code that decodes is the code of its pseudo-operation (R81, R86). -/
theorem decodeWire_ok {code : Byte} {i : Instr} (h : decodeWire code = .ok i) :
    i.wellFormed = true ∧ encode i = .wire code := by
  unfold decodeWire at h
  split at h
  case h_5 => cases h
  case h_1 hcode | h_2 hcode | h_3 hcode | h_4 hcode =>
    cases h
    exact ⟨rfl, congrArg PortWord.wire (BitVec.eq_of_toNat_eq hcode.symm)⟩

/-- Settles O2: in each code space the encoder gives back the word that was decoded. -/
theorem encodeOfDecodeIsTheWord : Obligations.EncodeOfDecodeIsTheWord := by
  intro w i h
  cases w with
  | command cw => exact decodeCommand_ok h
  | wire code => exact decodeWire_ok h

/-! ## Decoding as R73 and R74 put it -/

/-- R74 on what a reading of the word cw found: the instruction, or IllegalOp with the word's opcode. -/
def orIllegalOp (cw : Word) : Option Instr → Except DecodeReject Instr
  | some i => .ok i
  | none => .error (.illegalOp (BitVec.ofNat 8 cw.toNat))

theorem byteField1_eq_ofNat (cw : Word) : byteField1 cw = BitVec.ofNat 8 (cw.toNat / 2 ^ 8) := by
  rw [byteField1, BitVec.extractLsb', Nat.shiftRight_eq_div_pow]

theorem byteField2_eq_ofNat (cw : Word) : byteField2 cw = BitVec.ofNat 8 (cw.toNat / 2 ^ 16) := by
  rw [byteField2, BitVec.extractLsb', Nat.shiftRight_eq_div_pow]

theorem halfField_eq_ofNat (cw : Word) : halfField cw = BitVec.ofNat 16 (cw.toNat / 2 ^ 8) := by
  rw [halfField, BitVec.extractLsb', Nat.shiftRight_eq_div_pow]

theorem evField_eq (cw : Word) : evField cw = (cw.toNat / 2 ^ 8 % 2 == 1) := by
  rw [evField, ← BitVec.testBit_toNat, Nat.testBit_eq_decide_div_mod_eq]
  rfl

theorem decodeZ_eq_orIllegalOp (cw : Word) (i : Instr) :
    decodeZ cw i = orIllegalOp cw (if cw.toNat / 2 ^ 8 = 0 then some i else none) := by
  rw [decodeZ, if_congr (reservedZ_iff cw) rfl rfl]
  split <;> rfl

theorem decodeB_eq_orIllegalOp (cw : Word) (f : Byte → Instr) :
    decodeB cw f =
      orIllegalOp cw (if cw.toNat / 2 ^ 16 = 0 then some (f (BitVec.ofNat 8 (cw.toNat / 2 ^ 8))) else none) := by
  rw [decodeB, if_congr (reservedB_iff cw) rfl rfl, byteField1_eq_ofNat]
  split <;> rfl

theorem decodeA_eq_orIllegalOp (cw : Word) (f : Byte → Byte → Instr) :
    decodeA cw f =
      orIllegalOp cw
        (if cw.toNat / 2 ^ 24 = 0 then
          some (f (BitVec.ofNat 8 (cw.toNat / 2 ^ 8)) (BitVec.ofNat 8 (cw.toNat / 2 ^ 16)))
        else none) := by
  rw [decodeA, if_congr (reservedHigh_iff cw) rfl rfl, byteField1_eq_ofNat, byteField2_eq_ofNat]
  split <;> rfl

theorem decodeN_eq_orIllegalOp (cw : Word) (f : Half → Instr) :
    decodeN cw f =
      orIllegalOp cw (if cw.toNat / 2 ^ 24 = 0 then some (f (BitVec.ofNat 16 (cw.toNat / 2 ^ 8))) else none) := by
  rw [decodeN, if_congr (reservedHigh_iff cw) rfl rfl, halfField_eq_ofNat]
  split <;> rfl

theorem decodeE_eq_orIllegalOp (cw : Word) (f : Bool → Byte → Instr) :
    decodeE cw f =
      orIllegalOp cw
        (if cw.toNat / 2 ^ 24 = 0 ∧ cw.toNat / 2 ^ 9 % 2 ^ 7 = 0 ∧
            ¬(cw.toNat / 2 ^ 8 % 2 = 0 ∧ cw.toNat / 2 ^ 16 % 2 ^ 8 ≠ 0) then
          some (f (cw.toNat / 2 ^ 8 % 2 == 1) (BitVec.ofNat 8 (cw.toNat / 2 ^ 16)))
        else none) := by
  have hexp : (evField cw = false → byteField2 cw = 0) ↔
      ¬(cw.toNat / 2 ^ 8 % 2 = 0 ∧ cw.toNat / 2 ^ 16 % 2 ^ 8 ≠ 0) := by
    rw [← BitVec.toNat_inj, byteField2_toNat, evField_eq, beq_eq_false_iff_ne]
    have hzero : (0 : Byte).toNat = 0 := rfl
    omega
  rw [decodeE, if_congr (and_congr (reservedHigh_iff cw) (and_congr (extractLsb'_eq_zero_iff cw 9 7) hexp)) rfl rfl,
    evField_eq, byteField2_eq_ofNat]
  split <;> rfl

/-- Every command word decodes as the opcode map read on its number says: opcode by opcode, the row's format and no other. -/
theorem decodeCommand_eq_orIllegalOp (cw : Word) : decodeCommand cw = orIllegalOp cw (readCommand cw.toNat) := by
  unfold decodeCommand
  split
  case h_1 hop | h_2 hop | h_6 hop | h_8 hop | h_9 hop | h_11 hop =>
    rw [opField_toNat] at hop
    simp [decodeZ_eq_orIllegalOp, readCommand, hop]
  case h_3 hop =>
    rw [opField_toNat] at hop
    simp [decodeB_eq_orIllegalOp, readCommand, hop]
  case h_4 hop | h_5 hop =>
    rw [opField_toNat] at hop
    simp [decodeE_eq_orIllegalOp, readCommand, hop]
  case h_7 hop =>
    rw [opField_toNat] at hop
    simp [decodeA_eq_orIllegalOp, readCommand, hop]
  case h_10 hop =>
    rw [opField_toNat] at hop
    simp [decodeN_eq_orIllegalOp, readCommand, hop]
  case h_12 =>
    simp only [opField_toNat, imp_false] at *
    have hunlisted : readCommand cw.toNat = none := by simp [readCommand, *]
    rw [hunlisted]
    rfl

/-- Settles O3: R74's reading is `orIllegalOp` of what the opcode map finds. -/
theorem commandDecodingFollowsRule74 : Obligations.CommandDecodingFollowsRule74 := by
  intro cw
  rw [decode, decodeCommand_eq_orIllegalOp]
  cases readCommand cw.toNat <;> rfl

/-- Settles O4: each word is evaluated. -/
theorem specWordsDecode : Obligations.SpecWordsDecode :=
  ⟨rfl, rfl, rfl, rfl, rfl, rfl, rfl, rfl, rfl, rfl, rfl, rfl⟩

end Sys2Proof.Machine
end


section
/-! Variant gating, and what the frames written by the statements are to the codecs (R78, R80, R82, R83, R121). -/

namespace Sys2Proof.Machine

open Sys2Proof.Expected

/-! ## Variant gating (R78) -/

/-- An instruction whose operation is gated ends with WrongVariant, and nothing of the operation, outside its variant. -/
theorem onlyIn_of_gate {v : Variant} {i : Instr} {op : State → State} (hprep : ∀ s, issuerPrepares i s = s)
    (hop : ∀ s, operation i s = gate v op s) : OnlyIn v i := by
  intro s hv
  rw [exec_eq, hprep, hop, gate_of_ne (s := accept (commandWord i) s) hv]
  rfl

/-- In its variant a gated instruction ends its accept step as its operation does. -/
theorem exec_of_gate {v : Variant} {i : Instr} {op : State → State} (hprep : ∀ s, issuerPrepares i s = s)
    (hop : ∀ s, operation i s = gate v op s) {s : State} (hv : s.cfgVariant = v) :
    exec i s = .next (op (accept (commandWord i) s)) := by
  rw [exec_eq, hprep, hop, gate_of_eq (s := accept (commandWord i) s) hv]

/-- R78 for one gated instruction, whose operation never raises WrongVariant itself. -/
theorem gating_of_gate {v : Variant} {i : Instr} {op : State → State} (hprep : ∀ s, issuerPrepares i s = s)
    (hop : ∀ s, operation i s = gate v op s) (hne : ∀ s, s.status.err = .ok → (op s).status.err ≠ .wrongVariant) :
    OnlyIn v i ∧ ∀ s t : State, s.cfgVariant = v → exec i s = .next t → t.status.err ≠ .wrongVariant := by
  refine ⟨onlyIn_of_gate hprep hop, fun s t hv he => ?_⟩
  rw [exec_of_gate hprep hop hv] at he
  cases he
  exact hne _ rfl

theorem encodeBinary_err_ne (cmd : Byte) (s : State) : (encodeBinary cmd s).status.err ≠ .wrongVariant := by
  unfold encodeBinary
  split <;> nofun

theorem checkBinary_err_ne (ev : Bool) (exp : Byte) (body : List Byte) (rx : Half) (s : State) :
    (checkBinary ev exp body rx s).status.err ≠ .wrongVariant := by
  unfold checkBinary
  split
  · nofun
  · split
    · nofun
    · split <;> nofun
    · nofun

theorem decodeBinaryDin_err_ne (ev : Bool) (exp : Byte) (s : State) :
    (decodeBinaryDin ev exp s).status.err ≠ .wrongVariant := by
  unfold decodeBinaryDin
  split
  · nofun
  split
  · nofun
  split
  · nofun
  split
  · nofun
  split
  · nofun
  · exact checkBinary_err_ne _ _ _ _ _

theorem decodeWeight_err_ne (s : State) : (decodeWeight s).status.err ≠ .wrongVariant := by
  simp only [decodeWeight]
  split
  · nofun
  split
  · nofun
  split <;> nofun

theorem decodeAscii_err_ne (buf : List Byte) (s : State) : (decodeAscii buf s).status.err ≠ .wrongVariant := by
  simp only [decodeAscii]
  split
  · nofun
  split
  · nofun
  split
  · nofun
  split <;> nofun

theorem startRdx_err (n : Half) {s : State} (h : s.status.err = .ok) : (startRdx n s).status.err = .ok := by
  simp only [startRdx]
  split
  · rfl
  · exact h

/-- Settles O17: seven instructions are gated, and no operation raises WrongVariant itself; the other four accept without an
error. -/
theorem variantGating : Obligations.VariantGating := by
  refine ⟨fun i hi => ?_, fun i hi => ?_, fun i s hi => ⟨_, exec_eq i s, ?_⟩⟩
  · rcases hi with ⟨cmd, rfl⟩ | ⟨ev, exp, rfl⟩ | ⟨ev, exp, rfl⟩ | rfl
    · exact gating_of_gate (fun _ => rfl) (fun _ => rfl) fun s _ => encodeBinary_err_ne cmd s
    · refine gating_of_gate (op := startDecb) (fun _ => rfl) (fun _ => rfl) fun s hok => ?_
      rw [startDecb, beginRead_status, hok]
      nofun
    · exact gating_of_gate (fun _ => rfl) (fun _ => rfl) fun s _ => decodeBinaryDin_err_ne ev exp s
    · exact gating_of_gate (fun _ => rfl) (fun _ => rfl) fun s _ => decodeWeight_err_ne s
  · rcases hi with ⟨addr, acmd, rfl⟩ | rfl | rfl
    · exact gating_of_gate (op := encodeAscii addr acmd) (fun _ => rfl) (fun _ => rfl) fun _ _ => nofun
    · refine gating_of_gate (op := startDeca) (fun _ => rfl) (fun _ => rfl) fun s hok => ?_
      rw [startDeca, hok]
      nofun
    · exact gating_of_gate (op := fun t => decodeAscii t.dinSnap t) (fun _ => rfl) (fun _ => rfl) fun s _ =>
        decodeAscii_err_ne s.dinSnap s
  · rcases hi with rfl | rfl | ⟨n, rfl⟩ | rfl
    · rfl
    · rfl
    · exact startRdx_err n rfl
    · rfl

/-! ## The statements' bytes and the model's -/

/-- Of a number too large for 16 bits both write the low two bytes. -/
theorem bytesLE_eq_le16 (n : Nat) : bytesLE n = le16 (BitVec.ofNat 16 n) := by
  simp only [bytesLE, le16, List.cons.injEq, and_true]
  constructor <;> apply BitVec.eq_of_toNat_eq <;>
    simp only [BitVec.toNat_ofNat, BitVec.extractLsb'_toNat, Nat.shiftRight_eq_div_pow] <;> omega

@[simp] theorem bytesLE_toNat (v : Half) : bytesLE v.toNat = le16 v := by
  rw [bytesLE_eq_le16, BitVec.ofNat_toNat, BitVec.setWidth_eq]

theorem frame_eq_binaryFrame (h : Header) (body : List Byte) : frame h body = binaryFrame h body := by
  rw [frame, binaryFrame, bytesLE_toNat, bytesLE_eq_le16]
  rfl

/-! ## Requests and responses in BINARY (R86, R121) -/

/-- R120 as a whole state, for a payload that fits. -/
theorem encodeBinary_accept (cmd : Byte) (cw : Word) {s : State} (hfits : s.din.length ≤ 65534) :
    encodeBinary cmd (accept cw s) =
      completed s cw (binaryFrame s.cfgHeader (cmd :: s.din))
        { Results.zero with crc := crcA (cmd :: s.din), len := BitVec.ofNat 32 (s.din.length + 8) } := by
  have hlen : lenWord (binaryFrame s.cfgHeader (cmd :: s.din)).length = BitVec.ofNat 32 (s.din.length + 8) := by
    rw [binaryFrame_length]
    rfl
  rw [← hlen]
  exact if_neg (Nat.not_lt_of_le hfits)

/-- Settles O49: the two bodies of R121 are encoded, and their CRC-A is evaluated. -/
theorem requestFrames : Obligations.RequestFrames := by
  intro s hv
  have hping : crcA [0x91, 0x04] = 0x9104 := by decide +kernel
  have hweight : crcA [0xA0] = 0x00A0 := by decide
  refine ⟨?_, ?_⟩
  · rw [exec_eq, operation, gate_of_eq (by exact hv), encodeBinary_accept _ _ (Nat.le_of_ble_eq_true rfl)]
    simp only [issuerPrepares, binaryFrame, hping]
    rfl
  · rw [exec_eq, operation, gate_of_eq (by exact hv), encodeBinary_accept _ _ (Nat.le_of_ble_eq_true rfl)]
    simp only [issuerPrepares, binaryFrame, hweight]
    rfl

/-- Settles O50: in BINARY the gate is open, and the header read begins. -/
theorem responsesStartDecb : Obligations.ResponsesStartDecb := by
  intro s hv
  refine ⟨?_, ?_⟩
  · rw [exec_eq, operation, gate_of_eq (by exact hv)]
    rfl
  · rw [exec_eq, operation, gate_of_eq (by exact hv)]
    rfl

end Sys2Proof.Machine
end

section
/-! A correctly framed decimal payload is decoded (R83, R154). -/

namespace Sys2Proof.Machine

open Sys2Proof.Expected

/-! ## Fields behind a sequence of known length -/

theorem byteAt_append_right (a b : List Byte) (i : Nat) : byteAt (a ++ b) (a.length + i) = byteAt b i := by
  rw [byteAt, byteAt, List.getD_append_right _ _ _ _ (Nat.le_add_right _ _), Nat.add_sub_cancel_left]

theorem rdLe16_append_right (a b : List Byte) (i : Nat) : rdLe16 (a ++ b) (a.length + i) = rdLe16 b i := by
  rw [rdLe16, rdLe16, Nat.add_assoc, byteAt_append_right, byteAt_append_right]

/-- The two bytes of le16 behind another sequence. -/
theorem rdLe16_append_le16 (a : List Byte) (v : Half) : rdLe16 (a ++ le16 v) a.length = v :=
  (rdLe16_append_right a (le16 v) 0).trans (rdLe16_le16 v)

/-! ## The frame of R83 -/

/-- What CRC-B of a frame of R83 covers: STX, address, command, payload, ETX. -/
def asciiCovered (addr acmd : Byte) (p : List Byte) : List Byte := [stx, addr, acmd] ++ p ++ [etx]

theorem asciiFrame_eq (addr acmd : Byte) (p : List Byte) :
    asciiFrame addr acmd p = asciiCovered addr acmd p ++ le16 (crcB (asciiCovered addr acmd p)) :=
  congrArg (asciiCovered addr acmd p ++ ·) (bytesLE_toNat _)

theorem asciiCovered_length (addr acmd : Byte) (p : List Byte) : (asciiCovered addr acmd p).length = p.length + 4 := by
  simp [asciiCovered]

@[simp] theorem asciiFrame_length (addr acmd : Byte) (p : List Byte) :
    (asciiFrame addr acmd p).length = p.length + 6 := by
  rw [asciiFrame_eq, List.length_append, asciiCovered_length, le16_length]

theorem asciiFrame_take (addr acmd : Byte) (p : List Byte) :
    (asciiFrame addr acmd p).take (p.length + 4) = asciiCovered addr acmd p := by
  rw [asciiFrame_eq]
  exact List.take_left' (asciiCovered_length addr acmd p)

theorem asciiFrame_crc (addr acmd : Byte) (p : List Byte) :
    rdLe16 (asciiFrame addr acmd p) (p.length + 4) = crcB (asciiCovered addr acmd p) := by
  rw [asciiFrame_eq, ← asciiCovered_length addr acmd p]
  exact rdLe16_append_le16 _ _

theorem asciiFrame_etx (addr acmd : Byte) (p : List Byte) : byteAt (asciiFrame addr acmd p) (p.length + 3) = etx := by
  rw [asciiFrame_eq, asciiCovered, List.append_assoc]
  exact byteAt_append_right ([stx, addr, acmd] ++ p) _ 0

theorem asciiFrame_payload (addr acmd : Byte) (p : List Byte) : slice (asciiFrame addr acmd p) 3 (p.length + 3) = p := by
  rw [slice, Nat.add_sub_cancel, asciiFrame_eq]
  simp [asciiCovered]

/-- Every check of R156 passes on a frame of R83 whose payload parses. -/
theorem decodeAscii_asciiFrame (addr acmd : Byte) {p : List Byte} {d : Decimal} (hparse : parseDecimal p = some d)
    (s : State) :
    decodeAscii (asciiFrame addr acmd p) s =
      finish { s with
        dout := p
        res := { s.res with
          addr := addr, cmd := acmd, crc := crcB (asciiCovered addr acmd p), vneg := d.neg, vmant := d.mant
          vscale := d.scale, len := lenWord p.length } } := by
  have hlong : ¬ p.length + 6 < 6 := by omega
  have hstx : byteAt (asciiFrame addr acmd p) 0 = stx := rfl
  simp only [decodeAscii, asciiFrame_length, hlong, if_false, Nat.reduceSubDiff, asciiFrame_take, asciiFrame_crc, hstx,
    asciiFrame_etx, asciiFrame_payload, hparse, ne_eq, not_true_eq_false, or_self]
  rfl

/-- Settles O45: DECAB decodes DIN, which is the frame. -/
theorem asciiFrameIsDecoded : Obligations.AsciiFrameIsDecoded := by
  intro addr acmd p d s hv hparse hdin
  refine ⟨_, exec_of_gate (i := .decab) (op := fun t => decodeAscii t.dinSnap t) (fun _ => rfl) (fun _ => rfl) hv, ?_⟩
  rw [accept_dinSnap, hdin, decodeAscii_asciiFrame addr acmd hparse]
  exact ⟨rfl, rfl, rfl, rfl, rfl, rfl, rfl⟩

end Sys2Proof.Machine
end

section
/-! The pseudo-operations, line by line (R85, R86). -/

namespace Sys2Proof.Machine

open Sys2Proof.Expected

/-! ## A run, step by step -/

theorem run_succ (k : Nat) {s t : State} (h : step s = .next t) :
    Host.Core.run Sys2Proof.core (k + 1) s = Host.Core.run Sys2Proof.core k t := by
  rw [Nat.add_comm, run_add k (run_one h)]

/-- Under a legal bound the environment's next move is the step. -/
theorem run_succ_of_envMove (k : Nat) {s t : State} {e : EnvEvent} {es : List EnvEvent} (hmax : 6 ≤ s.cfgAsciiMax.toNat)
    (hs : s.sched = e :: es) (h : envMove e { s with sched := es } = .next t) :
    Host.Core.run Sys2Proof.core (k + 1) s = Host.Core.run Sys2Proof.core k t :=
  run_succ k ((step_of_cons ((asciiMaxLegal_iff _).mpr hmax) hs).trans h)

/-- A command line runs its command on an idle block with nothing held: the offer, then the block's turn. -/
theorem run_issue (k : Nat) {s t : State} {i : Instr} {es : List EnvEvent} (hwf : i.wellFormed = true)
    (hmax : 6 ≤ s.cfgAsciiMax.toNat) (hbusy : s.status.busy = false) (hport : s.port = []) (hs : s.sched = issue i ++ es)
    (hexec : exec i { s with sched := es } = .next t) :
    Host.Core.run Sys2Proof.core (k + 2) s = Host.Core.run Sys2Proof.core k t := by
  have hheld : s.port ++ [.word (encode i)] = .word (encode i) :: s.port := by rw [hport]; rfl
  refine (run_succ_of_envMove (k + 1) hmax hs rfl).trans (run_succ k ?_)
  refine (step_of_turnAt (s := { s with port := s.port ++ [.word (encode i)], sched := .blockTurn :: es })
    ⟨hmax, hbusy, rfl⟩ hheld).trans ?_
  exact (runWord_of_ok (decodeOfEncodeIsTheInstruction i hwf)).trans hexec

/-- DECB's accept step neither reads nor writes what the port holds and the moves to come. -/
theorem startDecb_withEnvironment (cw : Word) (s : State) (port : List PortAction) (es : List EnvEvent) :
    gate .binary startDecb (accept cw { s with port := port, sched := es }) =
      { gate .binary startDecb (accept cw s) with port := port, sched := es } := by
  by_cases hv : s.cfgVariant = .binary
  · rw [gate_of_eq (by exact hv), gate_of_eq (by exact hv)]
    rfl
  · rw [gate_of_ne (by exact hv), gate_of_ne (by exact hv)]
    rfl

theorem startDecb_cfgAsciiMax (cw : Word) (s : State) :
    (gate .binary startDecb (accept cw s)).cfgAsciiMax = s.cfgAsciiMax :=
  (gate_frame (beginRead_frame .bHdr 3) (accept cw s)).cfgAsciiMax

/-- Settles O51: a line before the command writes DIN, the command is run as `run_issue` says, and the lines after it are held
on the port. -/
theorem pseudoOperationsAreTheirExpansions : Obligations.PseudoOperationsAreTheirExpansions := by
  intro s es hmax hbusy hport
  refine ⟨fun hs => ?_, fun hs => ?_, fun hs => ?_, fun hs => ?_⟩
  · refine (run_succ_of_envMove 2 hmax hs (loadDin_next_iff.mpr ⟨by decide, rfl⟩)).trans ?_
    exact run_issue 0 rfl hmax hbusy hport rfl rfl
  · refine (run_succ_of_envMove 2 hmax hs (loadDin_next_iff.mpr ⟨by decide, rfl⟩)).trans ?_
    exact run_issue 0 rfl hmax hbusy hport rfl rfl
  · exact run_issue 0 rfl hmax hbusy hport hs rfl
  · refine (run_issue 2 rfl hmax hbusy hport hs rfl).trans ?_
    rw [startDecb_withEnvironment]
    refine (run_succ_of_envMove 1 ?_ rfl rfl).trans ((run_succ_of_envMove 0 ?_ rfl rfl).trans ?_)
    · rwa [startDecb_cfgAsciiMax]
    · rwa [startDecb_cfgAsciiMax]
    · refine congrArg Host.Outcome.next ((startDecb_withEnvironment _ s _ es).trans ?_).symm
      rw [hport]
      rfl

end Sys2Proof.Machine
end

section
/-! read_exact over any chunking (R180, R182): the answers that deliver its bytes bring it to its continuation. -/

namespace Sys2Proof.Machine

open Sys2Proof.Expected

/-- In phase p a read_exact is in progress, and k goes on from its bytes (R181). -/
def ReadsExactly (p : Phase) (k : List Byte → State → State) : Prop :=
  exactPhase p = true ∧ ∀ (ans : Answer) (s : State), s.phase = p → takeAnswer ans s = exactAnswer k ans s

theorem readsExactly_bHdr : ReadsExactly .bHdr decbAfterHeader := ⟨rfl, fun _ _ hp => by simp only [takeAnswer, hp]⟩

theorem readsExactly_bLen : ReadsExactly .bLen decbAfterLength := ⟨rfl, fun _ _ hp => by simp only [takeAnswer, hp]⟩

theorem readsExactly_bBody : ReadsExactly .bBody decbAfterBody := ⟨rfl, fun _ _ hp => by simp only [takeAnswer, hp]⟩

theorem readsExactly_bCrc : ReadsExactly .bCrc decbAfterCrc := ⟨rfl, fun _ _ hp => by simp only [takeAnswer, hp]⟩

/-- A read_exact in phase p lacks `bytes`, which stand next on the open stream with `after` behind them, and the moves to come
begin with enough answers that deliver bytes, with the wished sizes ks. -/
structure Reading (p : Phase) (bytes after : List Byte) (ks : List Nat) (es : List EnvEvent) (s : State) : Prop where
  bound : 6 ≤ s.cfgAsciiMax.toNat
  busy : s.status.busy = true
  phase : s.phase = p
  lacks : 1 ≤ bytes.length
  missing : s.rxbuf.length + bytes.length = s.need.toNat
  stream : s.stream = { unread := bytes ++ after, shut := false }
  sched : s.sched = deliveries ks ++ es
  enough : bytes.length ≤ ks.length

/-- An enabled read takes from the bytes it lacks as many as the draw wishes, at least one (R55). -/
theorem readStep_deliver (d : Nat) {s : State} {bytes after : List Byte} (henabled : readEnabled s = true)
    (hsize : requestSize s = bytes.length) (hlacks : 1 ≤ bytes.length)
    (hstream : s.stream = { unread := bytes ++ after, shut := false }) :
    readStep (.deliver d) s =
      takeAnswer (.chunk (bytes.take (chunkSize bytes.length d)))
        { s with stream := { unread := bytes.drop (chunkSize bytes.length d) ++ after, shut := false } } := by
  have hchunk : chunkSize bytes.length d ≤ bytes.length := by
    unfold chunkSize
    omega
  cases bytes with
  | nil => cases hlacks
  | cons b rest =>
    rw [readStep, henabled, if_pos rfl, hsize, hstream]
    simp only [oracle, List.cons_append, Bool.false_eq_true, if_false]
    rw [← List.cons_append, List.take_append_of_le_length hchunk, List.drop_append_of_le_length hchunk]

/-- A read_exact that lacks bytes is enabled (R181). -/
theorem readEnabled_of_exact {s : State} (hx : exactPhase s.phase = true) (hbusy : s.status.busy = true)
    (hless : s.rxbuf.length < s.need.toNat) : readEnabled s = true := by
  unfold readEnabled
  rw [hbusy]
  cases hp : s.phase with
  | idle | aRead | rRead => simp [hp] at hx
  | bHdr | bLen | bBody | bCrc | xRead => exact decide_eq_true hless

/-- One answer that delivers: read_exact takes a first part of the bytes it lacks. -/
theorem Reading.run_deliver {p : Phase} {k : List Byte → State → State} (hk : ReadsExactly p k) {d : Nat} {ks : List Nat}
    {bytes after : List Byte} {es : List EnvEvent} {s : State} (h : Reading p bytes after (d :: ks) es s) :
    Host.Core.run Sys2Proof.core 1 s =
      .next (exactAnswer k (.chunk (bytes.take (chunkSize bytes.length d)))
        { s with
          sched := deliveries ks ++ es
          stream := { unread := bytes.drop (chunkSize bytes.length d) ++ after, shut := false } }) := by
  obtain ⟨hexact, hanswer⟩ := hk
  have hx : exactPhase s.phase = true := by rw [h.phase, hexact]
  have hless : s.rxbuf.length < s.need.toNat := by
    have := h.missing
    have := h.lacks
    omega
  have hsize : requestSize s = bytes.length := by
    rw [requestSize_of_exact hx, ← h.missing, Nat.add_sub_cancel_left]
  have hstep : readStep (.deliver d) { s with sched := deliveries ks ++ es } = _ :=
    readStep_deliver d (readEnabled_of_exact hx h.busy hless) hsize h.lacks h.stream
  refine run_succ_of_envMove 0 h.bound h.sched (congrArg Host.Outcome.next (hstep.trans (hanswer _ _ h.phase)))

/-- The state after an answer that brought c of the bytes a read_exact lacks, and not all of them. -/
def tookPart (c : Nat) (bytes after : List Byte) (moves : List EnvEvent) (s : State) : State :=
  { s with
    rxbuf := s.rxbuf ++ bytes.take c, stream := { unread := bytes.drop c ++ after, shut := false }, sched := moves }

/-- Where the draw wishes for less than is lacking, the same read goes on with the rest. -/
theorem Reading.run_part {p : Phase} {k : List Byte → State → State} (hk : ReadsExactly p k) {d : Nat} {ks : List Nat}
    {bytes after : List Byte} {es : List EnvEvent} {s : State} (h : Reading p bytes after (d :: ks) es s)
    (hpart : chunkSize bytes.length d < bytes.length) :
    Host.Core.run Sys2Proof.core 1 s = .next (tookPart (chunkSize bytes.length d) bytes after (deliveries ks ++ es) s) ∧
      Reading p (bytes.drop (chunkSize bytes.length d)) after ks es
        (tookPart (chunkSize bytes.length d) bytes after (deliveries ks ++ es) s) := by
  have hstep := h.run_deliver hk
  obtain ⟨hbound, hbusy, hphase, -, hmissing, -, -, henough⟩ := h
  have hsize : 1 ≤ chunkSize bytes.length d := Nat.le_max_left _ _
  have htake : (bytes.take (chunkSize bytes.length d)).length = chunkSize bytes.length d := List.length_take_of_le hpart.le
  have hdrop : (bytes.drop (chunkSize bytes.length d)).length = bytes.length - chunkSize bytes.length d := List.length_drop
  rw [List.length_cons] at henough
  constructor
  · rw [hstep, exactAnswer_chunk_of_lacking k (by rw [htake]; show s.rxbuf.length + _ < s.need.toNat; omega)]
    rfl
  · exact
      { bound := hbound, busy := hbusy, phase := hphase, stream := rfl, sched := rfl
        lacks := by omega
        missing := by
          show (s.rxbuf ++ bytes.take _).length + _ = s.need.toNat
          rw [List.length_append]
          omega
        enough := by omega }

/-- R180, R182: over any chunking read_exact ends with exactly the bytes it lacked, in at most as many answers, and goes on
with them. -/
theorem Reading.run {p : Phase} {k : List Byte → State → State} (hk : ReadsExactly p k) {ks : List Nat}
    {bytes after : List Byte} {es : List EnvEvent} {s : State} (h : Reading p bytes after ks es s) :
    ∃ n ks', 1 ≤ n ∧ n ≤ bytes.length ∧ ks.length ≤ bytes.length + ks'.length ∧
      Host.Core.run Sys2Proof.core n s =
        .next (k (s.rxbuf ++ bytes)
          { s with
            rxbuf := s.rxbuf ++ bytes, stream := { unread := after, shut := false }, sched := deliveries ks' ++ es }) := by
  induction ks generalizing s bytes with
  | nil => exact absurd (h.lacks.trans h.enough) (by decide)
  | cons d ks ih =>
    rw [List.length_cons]
    rcases Nat.lt_or_ge (chunkSize bytes.length d) bytes.length with hpart | hall
    · obtain ⟨hstep, hrest⟩ := h.run_part hk hpart
      obtain ⟨n, ks', hpos, hle, hks, hrun⟩ := ih hrest
      have hsize : 1 ≤ chunkSize bytes.length d := Nat.le_max_left _ _
      rw [List.length_drop] at hle hks
      refine ⟨1 + n, ks', by omega, by omega, by omega, ?_⟩
      rw [run_add n hstep, hrun, tookPart, List.append_assoc, List.take_append_drop]
    · refine ⟨1, ks, Nat.le_refl 1, h.lacks, by have := h.lacks; omega, ?_⟩
      rw [h.run_deliver hk, List.take_of_length_le hall, List.drop_of_length_le hall, exactAnswer, if_neg ?_]
      · rfl
      · rw [List.length_append]
        exact Nat.not_lt_of_le h.missing.ge

end Sys2Proof.Machine
end

section
/-! DECB over a stream that carries a frame (R124, R182), and WRESP to its end (R86, R272). -/

namespace Sys2Proof.Machine

open Sys2Proof.Expected

/-! ## From the start of a read to its continuation -/

/-- Some number of steps leads from s to t. -/
def Reaches (s t : State) : Prop := ∃ n, Host.Core.run Sys2Proof.core n s = .next t

theorem Reaches.refl (s : State) : Reaches s s := ⟨0, rfl⟩

theorem Reaches.trans {s t u : State} : Reaches s t → Reaches t u → Reaches s u
  | ⟨m, hst⟩, ⟨n, htu⟩ => ⟨m + n, (run_add n hst).trans htu⟩

theorem reaches_of_step {s t : State} (h : step s = .next t) : Reaches s t := ⟨1, run_one h⟩

/-- An operation is in flight, `bytes` and then `after` stand on the open stream, and answers enough for `bytes` come. -/
structure Delivering (bytes after : List Byte) (ks : List Nat) (es : List EnvEvent) (s : State) : Prop where
  bound : 6 ≤ s.cfgAsciiMax.toNat
  busy : s.status.busy = true
  stream : s.stream = { unread := bytes ++ after, shut := false }
  sched : s.sched = deliveries ks ++ es
  enough : bytes.length ≤ ks.length

/-- Where a read_exact that begins now reads `bytes`, the run goes on from its continuation. -/
theorem Delivering.read {p : Phase} {k : List Byte → State → State} (hk : ReadsExactly p k) {n : Half} {ks : List Nat}
    {bytes after : List Byte} {es : List EnvEvent} {s : State} {last : List Nat → State}
    (h : Delivering bytes after ks es s) (hlacks : 1 ≤ bytes.length) (hn : bytes.length = n.toNat)
    (hnext : ∀ ks', ks.length ≤ bytes.length + ks'.length →
      ∃ ks'', Reaches
        (k bytes
          { s with
            phase := p, need := n, rxbuf := bytes, stream := { unread := after, shut := false }
            sched := deliveries ks' ++ es })
        (last ks'')) :
    ∃ ks'', Reaches (beginRead p n s) (last ks'') := by
  obtain ⟨hbound, hbusy, hstream, hsched, henough⟩ := h
  have hreading : Reading p bytes after ks es (beginRead p n s) :=
    { bound := hbound, busy := hbusy, phase := rfl, lacks := hlacks, missing := (Nat.zero_add _).trans hn
      stream := hstream, sched := hsched, enough := henough }
  obtain ⟨m, ks', -, -, hks, hrun⟩ := hreading.run hk
  exact (hnext ks' hks).imp fun _ => Reaches.trans ⟨m, hrun⟩

/-! ## DECB's continuations on the parts of a frame -/

theorem decbAfterHeader_of_eq {hdr : List Byte} {s : State} (h : hdr = headerBytes s.cfgHeader) :
    decbAfterHeader hdr s = beginRead .bLen 2 { s with hdrbuf := hdr } :=
  if_neg (not_not_intro h)

theorem decbAfterLength_le16 {v : Half} (hv : v ≠ 0) (s : State) :
    decbAfterLength (le16 v) s = beginRead .bBody v { s with bLenVal := v } := by
  rw [decbAfterLength, rdLe16_le16]
  exact if_neg hv

theorem decbAfterCrc_le16 (v : Half) (s : State) :
    decbAfterCrc (le16 v) s =
      checkBinary (evField s.cmdLatch) (byteField2 s.cmdLatch) s.bodybuf v { s with crcbuf := le16 v } := by
  rw [decbAfterCrc, rdLe16_le16]

/-- What DECB has gathered, and what it has left to the environment, when the last byte of a frame has come (R124). -/
def decbGathered (body after : List Byte) (es : List EnvEvent) (s : State) : State :=
  { s with
    phase := .bCrc, need := 2, rxbuf := le16 (crcA body), hdrbuf := headerBytes s.cfgHeader
    bLenVal := BitVec.ofNat 16 body.length, bodybuf := body, crcbuf := le16 (crcA body)
    stream := { unread := after, shut := false }, sched := es }

/-- R124 over any chunking of a frame: the four reads gather its parts, and the checks follow. -/
theorem startDecb_reaches_check {body after : List Byte} {ks : List Nat} {es : List EnvEvent} {s : State}
    (h : Delivering (binaryFrame s.cfgHeader body) after ks es s) (hpos : 1 ≤ body.length)
    (hfits : body.length ≤ 65535) :
    ∃ ks', Reaches (startDecb s)
      (checkBinary (evField s.cmdLatch) (byteField2 s.cmdLatch) body (crcA body)
        (decbGathered body after (deliveries ks' ++ es) s)) := by
  obtain ⟨hbound, hbusy, hstream, hsched, henough⟩ := h
  have hlen : body.length = (BitVec.ofNat 16 body.length).toNat := by
    rw [BitVec.toNat_ofNat]
    omega
  have hlenNe : BitVec.ofNat 16 body.length ≠ 0 := fun h0 => by
    rw [h0] at hlen
    exact Nat.ne_of_gt hpos hlen
  rw [binaryFrame_length] at henough
  simp only [binaryFrame, List.append_assoc] at hstream
  refine Delivering.read readsExactly_bHdr ⟨hbound, hbusy, hstream, hsched, ?_⟩ (Nat.le_add_left 1 2) rfl
    fun ks1 hks1 => ?_
  · rw [headerBytes_length]
    omega
  rw [decbAfterHeader_of_eq (by rfl)]
  rw [headerBytes_length] at hks1
  refine Delivering.read readsExactly_bLen ⟨hbound, hbusy, rfl, rfl, ?_⟩ (Nat.le_add_left 1 1) rfl fun ks2 hks2 => ?_
  · rw [le16_length]
    omega
  rw [decbAfterLength_le16 hlenNe]
  rw [le16_length] at hks2
  refine Delivering.read readsExactly_bBody ⟨hbound, hbusy, rfl, rfl, ?_⟩ hpos hlen fun ks3 hks3 => ?_
  · omega
  refine Delivering.read readsExactly_bCrc ⟨hbound, hbusy, rfl, rfl, ?_⟩ (Nat.le_add_left 1 1) rfl fun ks4 _ => ?_
  · rw [le16_length]
    omega
  rw [decbAfterCrc_le16]
  exact ⟨ks4, Reaches.refl _⟩

/-- R124's checks pass on a body whose CRC came with it and whose first byte is the code expected. -/
theorem checkBinary_expected (b : Byte) (rest : List Byte) (s : State) :
    checkBinary true b (b :: rest) (crcA (b :: rest)) s = deliverBody (b :: rest) s := by
  simp [checkBinary]

end Sys2Proof.Machine
end

section
/-! The weight payload's fields (R82, R200), and WRESP to its end (R86, R272). -/

namespace Sys2Proof.Machine

open Sys2Proof.Expected

/-! ## The weight payload -/

/-- rd_le32s of four bytes is their sum in little-endian weights (R9). -/
theorem rdLe32s_eq_ofNat (b r0 r1 r2 r3 : Byte) (rest : List Byte) :
    rdLe32s (b :: r0 :: r1 :: r2 :: r3 :: rest) 1 =
      BitVec.ofNat 32 (r0.toNat + 2 ^ 8 * r1.toNat + 2 ^ 16 * r2.toNat + 2 ^ 24 * r3.toNat) := by
  have hlow : r0.setWidth 32 ||| (r1.setWidth 32 <<< 8) ||| (r2.setWidth 32 <<< 16) = encodeA r0 r1 r2 := by
    rw [encodeA, BitVec.or_comm, BitVec.or_comm (r0.setWidth 32), BitVec.or_assoc]
  have hsum := encodeA_toNat r0 r1 r2
  show r0.setWidth 32 ||| (r1.setWidth 32 <<< 8) ||| (r2.setWidth 32 <<< 16) ||| (r3.setWidth 32 <<< 24) = _
  rw [hlow]
  apply BitVec.eq_of_toNat_eq
  rw [BitVec.toNat_or, BitVec.toNat_shiftLeft, BitVec.toNat_setWidth, BitVec.toNat_ofNat,
    Nat.mod_eq_of_lt (a := r3.toNat) (by omega), Nat.mod_eq_of_lt (a := r3.toNat <<< 24) (by rw [Nat.shiftLeft_eq]; omega),
    Nat.or_comm, ← Nat.shiftLeft_add_eq_or_of_lt (by omega), Nat.shiftLeft_eq]
  omega

/-- RES_WEXP by R202's table: 4 - code up to code 4, and 0 above (R203). -/
theorem divisionExponent_eq (div : Byte) :
    divisionExponent div = if div.toNat ≤ 4 then BitVec.ofNat 3 (4 - div.toNat) else 0 := by
  have hfour : (4 : Byte).toNat = 4 := rfl
  rw [divisionExponent, if_congr (BitVec.ule_iff_toNat_le) rfl rfl, hfour]
  split
  · next h =>
    apply BitVec.eq_of_toNat_eq
    rw [BitVec.toNat_setWidth, BitVec.toNat_sub_of_le h, BitVec.toNat_ofNat, hfour]
  · rfl

/-- R200 on a body of R82, whatever follows its seven bytes. -/
theorem decodeWeight_weightBody (r0 r1 r2 r3 div stab : Byte) (more : List Byte) {s : State}
    (hsnap : s.dinSnap = weightBody r0 r1 r2 r3 div stab ++ more) (hres : s.res = Results.zero) :
    decodeWeight s = finish { s with res := weightResults r0 r1 r2 r3 div stab (7 + more.length) } := by
  have hlen : (0x10 :: r0 :: r1 :: r2 :: r3 :: div :: stab :: more).length = 7 + more.length :=
    Nat.add_comm more.length 7
  have hlong : ¬ 7 + more.length < 7 := by omega
  have hstable : (stab != 0) = decide (stab ≠ 0) := by
    rw [decide_not]
    rfl
  simp only [weightBody, List.cons_append, List.nil_append] at hsnap
  simp only [decodeWeight, hsnap, weightRespCode, ne_eq, not_true_eq_false, if_false, hlen, hlong, rdLe32s_eq_ofNat, hres,
    divisionExponent_eq, weightResults, ← hstable]
  rfl

/-! ## Answers that come too late -/

/-- An idle block has no read pending, so an answer is dropped (log 5). -/
theorem readStep_of_idle (d : Draw) {s : State} (hbusy : s.status.busy = false) : readStep d s = s := by
  simp only [readStep, readEnabled, hbusy, Bool.false_and, Bool.false_eq_true, if_false]

/-- Answers left over after an operation change nothing. -/
theorem reaches_past_deliveries {ks : List Nat} {es : List EnvEvent} {s : State} (hbound : 6 ≤ s.cfgAsciiMax.toNat)
    (hbusy : s.status.busy = false) (hsched : s.sched = deliveries ks ++ es) : Reaches s { s with sched := es } := by
  induction ks generalizing s with
  | nil =>
    rw [← show s.sched = es from hsched]
    exact Reaches.refl s
  | cons d ks ih =>
    have hstep : step s = .next { s with sched := deliveries ks ++ es } := by
      rw [step_of_cons ((asciiMaxLegal_iff _).mpr hbound) hsched]
      exact congrArg Host.Outcome.next (readStep_of_idle _ hbusy)
    exact (reaches_of_step hstep).trans (ih hbound hbusy rfl)

/-! ## WRESP -/

/-- In BINARY an idle block, past the answers left over, runs what WRESP left held: DIN takes DOUT, and DECW reads it. -/
theorem wrespRest_reaches {ks : List Nat} {s : State} (hbound : 6 ≤ s.cfgAsciiMax.toNat) (hv : s.cfgVariant = .binary)
    (hbusy : s.status.busy = false) (hport : s.port = wrespRest) (hsched : s.sched = deliveries ks ++ [])
    (hfits : s.dout.length ≤ Config.pDinMax) :
    Reaches s (decodeWeight (accept (encodeZ 0x13) { s with din := s.dout, port := [], sched := [] })) := by
  have hlegal := (asciiMaxLegal_iff _).mpr hbound
  have hcopy : step { s with sched := [] } =
      .next { s with din := s.dout, port := [.word (.command (encodeZ 0x13))], sched := [] } := by
    rw [step_of_nil (by exact hlegal) rfl, blockStep_of_cons (by exact hbusy) (by exact hport)]
    exact loadDin_next_iff.mpr ⟨hfits, rfl⟩
  have hdecw : step { s with din := s.dout, port := [.word (.command (encodeZ 0x13))], sched := [] } =
      .next (decodeWeight (accept (encodeZ 0x13) { s with din := s.dout, port := [], sched := [] })) := by
    have hdecode : decode (.command (encodeZ 0x13)) = .ok .decw := rfl
    rw [step_of_nil (by exact hlegal) rfl, blockStep_of_cons (by exact hbusy) rfl]
    refine (runWord_of_ok hdecode).trans ?_
    exact exec_of_gate (fun _ => rfl) (fun _ => rfl) hv
  exact (reaches_past_deliveries hbound hbusy hsched).trans ((reaches_of_step hcopy).trans (reaches_of_step hdecw))

/-- WRESP's accept on a block with nothing else held, the wished sizes ks of the answers to come (R40, R86). -/
def wrespAccepted (ks : List Nat) (s : State) : State :=
  accept (commandWord .weightResp) { s with port := wrespRest, sched := deliveries ks }

/-- Settles O52: DECB gathers the frame and delivers its body, the answers left over are dropped, and DECW reads the body. -/
theorem weightResponseIsRead : Obligations.WeightResponseIsRead := by
  intro r0 r1 r2 r3 div stab after ks s hv hturn hport hstream hks
  have ⟨hbound, _, _⟩ := hturn
  have hstart : step s = .next (startDecb (wrespAccepted ks s)) := by
    have hdecode : decode (.wire 0x10) = .ok .weightResp := rfl
    rw [step_of_turnAt hturn hport]
    refine (runWord_of_ok hdecode).trans ?_
    rw [exec_eq, operation, gate_of_eq (by exact hv)]
    rfl
  have hdelivering : Delivering (binaryFrame (wrespAccepted ks s).cfgHeader (weightBody r0 r1 r2 r3 div stab)) after ks []
      (wrespAccepted ks s) :=
    { bound := hbound, busy := rfl, stream := by rw [← frame_eq_binaryFrame]; exact hstream
      sched := (List.append_nil _).symm, enough := by rw [binaryFrame_length]; exact hks }
  have hbody : (weightBody r0 r1 r2 r3 div stab).length = 7 := rfl
  obtain ⟨ks', hdecb⟩ := startDecb_reaches_check hdelivering (by rw [hbody]; decide) (by rw [hbody]; decide)
  have hlatch : (wrespAccepted ks s).cmdLatch = encodeE 0x11 true 0x10 := rfl
  rw [hlatch, evField_encodeE, byteField2_encodeE, weightBody, checkBinary_expected] at hdecb
  obtain ⟨n, hrun⟩ := (reaches_of_step hstart).trans
    (hdecb.trans (wrespRest_reaches (by exact hbound) (by exact hv) rfl rfl rfl (Nat.le_of_ble_eq_true rfl)))
  rw [decodeWeight_weightBody r0 r1 r2 r3 div stab [] (by rfl) (by rfl)] at hrun
  exact ⟨n, _, hrun, rfl, rfl, rfl, rfl, rfl, rfl, rfl, rfl⟩

end Sys2Proof.Machine
end

section
/-! The two CRC registers as maps linear over GF(2); CRC-A as the remainder of the message polynomial (R100 to R103). -/

namespace Sys2Proof.Machine

open Sys2Proof.Expected

/-! ## Maps of a 16-bit register that are linear over GF(2) -/

/-- The map keeps the sum over GF(2). -/
def XorLinear (f : Half → Half) : Prop := ∀ x y, f (x ^^^ y) = f x ^^^ f y

theorem XorLinear.map_zero {f : Half → Half} (h : XorLinear f) : f 0 = 0 := by
  simpa using h 0 0

theorem XorLinear.iterate {f : Half → Half} (h : XorLinear f) (k : Nat) : XorLinear f^[k] := by
  intro x y
  induction k generalizing x y with
  | zero => rfl
  | succ k ih => rw [Function.iterate_succ_apply, h, ih, ← Function.iterate_succ_apply, ← Function.iterate_succ_apply]

theorem XorLinear.injective {f : Half → Half} (h : XorLinear f) (hker : ∀ x, f x = 0 → x = 0) :
    Function.Injective f := by
  intro x y hxy
  have hsum : f (x ^^^ y) = 0 := (h x y).trans (BitVec.xor_eq_zero_iff.mpr hxy)
  exact BitVec.xor_eq_zero_iff.mp (hker _ hsum)

/-! ## The two bytes of a register -/

/-- A register is its high byte, in place, and its low byte. -/
theorem half_eq_high_xor_low (r : Half) : r = ((r >>> 8) <<< 8) ^^^ (r.setWidth 8).setWidth 16 := by
  apply BitVec.eq_of_getLsbD_eq
  intro i hi
  by_cases h : i < 8
  · simp [h, hi]
  · simp [h, hi, Nat.add_sub_cancel' (Nat.le_of_not_lt h)]

theorem highByte_shiftLeft (r : Half) : ((r >>> 8) <<< 8) <<< 8 = 0 := by
  rw [← BitVec.shiftLeft_add]
  exact BitVec.shiftLeft_eq_zero (Nat.le_refl 16)

theorem lowByte_shiftLeft (r : Half) : (r.setWidth 8).setWidth 16 <<< 8 = r <<< 8 := by
  apply BitVec.eq_of_toNat_eq
  simp only [BitVec.toNat_shiftLeft, BitVec.toNat_setWidth, Nat.shiftLeft_eq]
  omega

/-! ## CRC-A's register -/

/-- One shift of CRC-A's register: times x, modulo x^16 + x^12 + x^5 + 1. -/
def crcaShift (r : Half) : Half := (r <<< 1) ^^^ if r.msb then crcaPoly else 0

theorem crcaShift_xorLinear : XorLinear crcaShift := by
  intro x y
  have hpoly : (if (x ^^^ y).msb then crcaPoly else 0) =
      (if x.msb then crcaPoly else 0) ^^^ if y.msb then crcaPoly else 0 := by
    rw [BitVec.msb_xor]
    cases x.msb <;> cases y.msb <;> rfl
  simp only [crcaShift, hpoly, BitVec.shiftLeft_xor_distrib]
  ac_rfl

theorem crcaShift_of_msb_eq_false {r : Half} (h : r.msb = false) : crcaShift r = r <<< 1 := by
  simp [crcaShift, h]

/-- The divisor's constant term is 1, so bit 0 of the shifted register tells whether the divisor was taken off. -/
theorem crcaShift_getLsbD_zero (r : Half) : (crcaShift r).getLsbD 0 = r.msb := by
  unfold crcaShift
  cases r.msb <;> simp [crcaPoly]

theorem crcaShift_injective : Function.Injective crcaShift := by
  refine crcaShift_xorLinear.injective fun r h => ?_
  have hmsb : r.msb = false := by rw [← crcaShift_getLsbD_zero, h]; rfl
  have hsmall := BitVec.msb_eq_false_iff_two_mul_lt.mp hmsb
  have hnum := congrArg BitVec.toNat ((crcaShift_of_msb_eq_false hmsb).symm.trans h)
  apply BitVec.eq_of_toNat_eq
  simp only [BitVec.toNat_shiftLeft, Nat.shiftLeft_eq, BitVec.ofNat_eq_ofNat, BitVec.toNat_ofNat] at hnum ⊢
  omega

/-- Where nothing stands in the top k bits, k shifts take no divisor off. -/
theorem crcaShift_iterate_of_lt {k : Nat} {r : Half} (h : r.toNat * 2 ^ k < 2 ^ 16) : crcaShift^[k] r = r <<< k := by
  induction k generalizing r with
  | zero => simp
  | succ k ih =>
    rw [Nat.pow_succ', ← Nat.mul_assoc] at h
    have hsmall : r.toNat * 2 < 2 ^ 16 := Nat.lt_of_le_of_lt (Nat.le_mul_of_pos_right _ (Nat.two_pow_pos k)) h
    have hdouble : (r <<< 1).toNat = r.toNat * 2 := by
      rw [BitVec.toNat_shiftLeft, Nat.shiftLeft_eq]
      exact Nat.mod_eq_of_lt hsmall
    have hmsb : r.msb = false := BitVec.msb_eq_false_iff_two_mul_lt.mpr (by omega)
    rw [Function.iterate_succ_apply, crcaShift_of_msb_eq_false hmsb, ih (by rwa [hdouble]), Nat.add_comm,
      BitVec.shiftLeft_add]

/-- Eight shifts move a byte up whole. -/
theorem crcaShift_iterate_byte (b : Byte) : crcaShift^[8] (b.setWidth 16) = b.setWidth 16 <<< 8 := by
  refine crcaShift_iterate_of_lt ?_
  rw [BitVec.toNat_setWidth]
  omega

/-- The mask 0x8000 of R100 reads the top bit. -/
theorem and_topMask_ne_zero_iff (r : Half) : r &&& 0x8000 ≠ 0 ↔ r.msb = true := by
  have hmask : (0x8000 : Half) = BitVec.twoPow 16 15 := rfl
  rw [hmask, BitVec.and_twoPow, BitVec.msb_eq_getLsbD_last]
  cases r.getLsbD (16 - 1) <;> decide

/-- R100's loop shifts the sum of accumulator and view. -/
theorem crcaLoop_eq (k : Nat) (acc t : Half) : crcaLoop k acc t = crcaShift^[k] (acc ^^^ t) ^^^ (t <<< k) := by
  induction k generalizing acc t with
  | zero => simp [crcaLoop]
  | succ k ih =>
    have hturn : (if (acc ^^^ t) &&& 0x8000 ≠ 0 then (acc <<< 1) ^^^ crcaPoly else acc <<< 1) ^^^ (t <<< 1) =
        crcaShift (acc ^^^ t) := by
      simp only [and_topMask_ne_zero_iff, crcaShift, BitVec.shiftLeft_xor_distrib]
      split
      · ac_rfl
      · simp
    rw [crcaLoop, ih, hturn, Function.iterate_succ_apply, Nat.add_comm, BitVec.shiftLeft_add]

/-- R100's step is the register eight shifts on, with the byte added into its low byte. -/
theorem crcaStep_eq (crc : Half) (b : Byte) : crcaStep crc b = crcaShift^[8] crc ^^^ b.setWidth 16 := by
  have hsplit : crcaShift^[8] crc = crcaShift^[8] ((crc >>> 8) <<< 8) ^^^ crc <<< 8 := by
    rw [← lowByte_shiftLeft crc, ← crcaShift_iterate_byte, ← crcaShift_xorLinear.iterate, ← half_eq_high_xor_low]
  rw [crcaStep, crcaLoop_eq, highByte_shiftLeft, hsplit]
  simp

/-- Settles O20: the entry of the top byte comes from the loop alone; the listed entries are evaluated. -/
theorem crcaStepIsTheTableForm : Obligations.CrcaStepIsTheTableForm := by
  refine ⟨fun crc b => ?_, by decide +kernel, by decide +kernel, by decide +kernel⟩
  have hentry : crcaStep ((crc >>> 8) <<< 8) 0 = crcaShift^[8] ((crc >>> 8) <<< 8) := by
    rw [crcaStep_eq]
    exact BitVec.xor_zero
  rw [hentry, crcaStep, crcaLoop_eq, highByte_shiftLeft]
  simp

/-! ## Long division (R102 item 2) -/

/-- A step of the division is a shift of the register, with the next coefficient added at the bottom. -/
theorem divideStep_eq (r : Half) (bit : Bool) :
    divideStep r bit = crcaShift r ^^^ (BitVec.ofBool bit).setWidth 16 := by
  have hor : (r <<< 1) ||| (BitVec.ofBool bit).setWidth 16 = (r <<< 1) ^^^ (BitVec.ofBool bit).setWidth 16 := by
    apply BitVec.eq_of_getLsbD_eq
    intro i hi
    cases i <;> simp
  simp only [divideStep, crcaShift, hor, crcaPoly]
  split
  · ac_rfl
  · simp

/-- Dividing on from r leaves r, shifted on, and what the division from 0 leaves. -/
theorem foldl_divideStep (r : Half) (bits : List Bool) :
    bits.foldl divideStep r = crcaShift^[bits.length] r ^^^ bits.foldl divideStep 0 := by
  induction bits generalizing r with
  | nil => simp
  | cons bit bits ih =>
    have hstep : divideStep r bit = crcaShift r ^^^ divideStep 0 bit := by
      rw [divideStep_eq, divideStep_eq, crcaShift_xorLinear.map_zero]
      simp
    rw [List.foldl_cons, List.foldl_cons, ih, ih (divideStep 0 bit), hstep, crcaShift_xorLinear.iterate,
      List.length_cons, Function.iterate_succ_apply, BitVec.xor_assoc]

/-- Fewer than sixteen coefficients are their own remainder, so the next one only joins them. -/
theorem divideStep_setWidth {w : Nat} (hw : w < 16) (v : BitVec w) (bit : Bool) :
    divideStep (v.setWidth 16) bit = (v.concat bit).setWidth 16 := by
  have hmsb : (v.setWidth 16).msb = false := by
    rw [BitVec.msb_eq_getLsbD_last, BitVec.getLsbD_setWidth, BitVec.getLsbD_of_ge _ _ (by omega), Bool.and_false]
  simp only [divideStep, hmsb, Bool.false_eq_true, if_false]
  apply BitVec.eq_of_getLsbD_eq
  intro i hi
  cases i with
  | zero => simp
  | succ i => simp [hi]

theorem messageBits_cons (b : Byte) (d : List Byte) : messageBits (b :: d) = messageBits [b] ++ messageBits d := rfl

/-- One byte divided on from 0 is its own remainder. -/
theorem foldl_divideStep_byte (b : Byte) : (messageBits [b]).foldl divideStep 0 = b.setWidth 16 := by
  have hzero : (0 : Half) = (0#0).setWidth 16 := rfl
  simp only [messageBits, List.flatMap_cons, List.flatMap_nil, List.append_nil, List.foldl_cons, List.foldl_nil, hzero,
    divideStep_setWidth, Nat.reduceLT, Nat.reduceAdd]
  congr 1
  apply BitVec.eq_of_getLsbD_eq
  intro i hi
  interval_cases i <;> simp

/-- Settles O21: byte by byte, the division goes on as CRC-A's step does. -/
theorem crcaIsThePolynomialRemainder : Obligations.CrcaIsThePolynomialRemainder := by
  intro d
  have hbyte (r : Half) (b : Byte) : (messageBits [b]).foldl divideStep r = crcaStep r b := by
    rw [foldl_divideStep, foldl_divideStep_byte, crcaStep_eq]
    rfl
  rw [crcA, crcaInit]
  generalize (0x0000 : Half) = r
  induction d generalizing r with
  | nil => rfl
  | cons b d ih => rw [messageBits_cons, List.foldl_append, hbyte, List.foldl_cons, ih]

/-! ## Short sequences and leading zeros (R102, R103) -/

theorem crcaStep_zero (b : Byte) : crcaStep 0 b = b.setWidth 16 := by
  rw [crcaStep_eq, (crcaShift_xorLinear.iterate 8).map_zero]
  exact BitVec.zero_xor

theorem crcA_zero_cons (d : List Byte) : crcA (0 :: d) = crcA d :=
  congrArg (fun r => d.foldl crcaStep r) (crcaStep_zero 0)

theorem byte_shiftLeft_xor_byte (b0 b1 : Byte) : b0.setWidth 16 <<< 8 ^^^ b1.setWidth 16 = b0 ++ b1 := by
  apply BitVec.eq_of_getLsbD_eq
  intro i hi
  rw [BitVec.getLsbD_append]
  by_cases h : i < 8
  · simp [h, hi]
  · simp [h, hi, BitVec.getLsbD_of_ge b1 i (Nat.le_of_not_lt h)]

/-- Settles O22: two bytes fit the register, so no divisor is taken off, and a leading 00 leaves it at 0. -/
theorem crcaShortAndZeroLaws : Obligations.CrcaShortAndZeroLaws := by
  refine ⟨crcA_nil, crcaStep_zero, fun b0 b1 => ?_, crcA_zero_cons, fun n => ?_⟩
  · have hbytes : crcA [b0, b1] = b0 ++ b1 := by
      calc crcA [b0, b1] = crcaStep (b0.setWidth 16) b1 := congrArg (crcaStep · b1) (crcaStep_zero b0)
        _ = b0.setWidth 16 <<< 8 ^^^ b1.setWidth 16 := by rw [crcaStep_eq, crcaShift_iterate_byte]
        _ = b0 ++ b1 := byte_shiftLeft_xor_byte b0 b1
    rw [hbytes, BitVec.toNat_append, ← Nat.shiftLeft_add_eq_or_of_lt b1.isLt, Nat.shiftLeft_eq, Nat.mul_comm]
  · induction n with
    | zero => exact crcA_nil
    | succ n ih => rw [List.replicate_succ, crcA_zero_cons, ih]

/-! ## Linearity and single changes (R102 items 2 and 4) -/

theorem crcaStep_xor (r r' : Half) (b b' : Byte) :
    crcaStep (r ^^^ r') (b ^^^ b') = crcaStep r b ^^^ crcaStep r' b' := by
  simp only [crcaStep_eq, crcaShift_xorLinear.iterate 8 r r', BitVec.setWidth_xor]
  ac_rfl

/-- Two runs over sequences of equal length add up to the run over their sum. -/
theorem foldl_crcaStep_zipWith (r r' : Half) {a b : List Byte} (hlen : a.length = b.length) :
    (List.zipWith (· ^^^ ·) a b).foldl crcaStep (r ^^^ r') = a.foldl crcaStep r ^^^ b.foldl crcaStep r' := by
  induction a generalizing r r' b with
  | nil =>
    rw [List.eq_nil_of_length_eq_zero hlen.symm]
    rfl
  | cons x a ih =>
    cases b with
    | nil => cases hlen
    | cons y b =>
      rw [List.zipWith_cons_cons, List.foldl_cons, crcaStep_xor, ih _ _ (Nat.succ.inj hlen)]
      rfl

/-- Settles O23: both registers start at 0, and each step is linear in register and byte. -/
theorem crcaIsLinear : Obligations.CrcaIsLinear := fun _ _ hlen => foldl_crcaStep_zipWith 0 0 hlen

theorem crcaStep_left_injective (b : Byte) : Function.Injective (crcaStep · b) := by
  intro r r' h
  simp only [crcaStep_eq, BitVec.xor_left_inj] at h
  exact crcaShift_injective.iterate 8 h

theorem crcaStep_right_injective (r : Half) : Function.Injective (crcaStep r) := by
  intro b b' h
  simp only [crcaStep_eq, BitVec.xor_right_inj] at h
  simpa using congrArg (BitVec.setWidth 8) h

theorem foldl_crcaStep_injective (d : List Byte) : Function.Injective (d.foldl crcaStep ·) := by
  induction d with
  | nil => exact Function.injective_id
  | cons b d ih => exact ih.comp (crcaStep_left_injective b)

/-- A change of any one byte changes CRC-A. -/
theorem crcA_set_ne {d : List Byte} {i : Nat} (hi : i < d.length) {b : Byte} (hb : b ≠ d[i]) :
    crcA (d.set i b) ≠ crcA d := by
  intro h
  rw [List.set_eq_take_append_cons_drop, if_pos hi, crcA_append] at h
  conv_rhs at h => rw [← List.take_append_drop i d, crcA_append, List.drop_eq_getElem_cons hi]
  exact hb (crcaStep_right_injective _ (foldl_crcaStep_injective _ h))

theorem flipBit_eq_set {d : List Byte} {i : Nat} (hi : i < d.length) (k : Nat) :
    flipBit d i k = d.set i (d[i] ^^^ BitVec.twoPow 8 k) := by
  rw [flipBit, List.getD_eq_getElem _ _ hi]

theorem xor_twoPow_ne (b : Byte) {k : Nat} (hk : k < 8) : b ^^^ BitVec.twoPow 8 k ≠ b := by
  intro h
  have hbit := congrArg (BitVec.getLsbD · k) h
  simp [hk] at hbit

/-- Settles O24: a flipped bit changes its byte. -/
theorem crcaDetectsEverySingleBitChange : Obligations.CrcaDetectsEverySingleBitChange := by
  intro d i k hi hk
  rw [flipBit_eq_set hi]
  exact crcA_set_ne hi (xor_twoPow_ne _ hk)

end Sys2Proof.Machine
end

section
/-! CRC-B's register, its table form and its residue (R110 to R112). -/

namespace Sys2Proof.Machine

open Sys2Proof.Expected

/-! ## CRC-B's register -/

/-- One turn of R110's loop. -/
def crcbShift (r : Half) : Half := (r >>> 1) ^^^ if r.getLsbD 0 then crcbPoly else 0

theorem crcbShift_xorLinear : XorLinear crcbShift := by
  intro x y
  have hpoly : (if (x ^^^ y).getLsbD 0 then crcbPoly else 0) =
      (if x.getLsbD 0 then crcbPoly else 0) ^^^ if y.getLsbD 0 then crcbPoly else 0 := by
    rw [BitVec.getLsbD_xor]
    cases x.getLsbD 0 <;> cases y.getLsbD 0 <;> rfl
  simp only [crcbShift, hpoly, BitVec.ushiftRight_xor_distrib]
  ac_rfl

/-- The mask 0x0001 of R110 reads bit 0. -/
theorem and_one_ne_zero_iff (r : Half) : r &&& 0x0001 ≠ 0 ↔ r.getLsbD 0 = true := by
  have hmask : (0x0001 : Half) = BitVec.twoPow 16 0 := rfl
  rw [hmask, BitVec.and_twoPow]
  cases r.getLsbD 0 <;> decide

theorem crcbLoop_eq (k : Nat) (r : Half) : crcbLoop k r = crcbShift^[k] r := by
  induction k generalizing r with
  | zero => rfl
  | succ k ih =>
    rw [crcbLoop, ih, Function.iterate_succ_apply]
    congr 1
    simp only [and_one_ne_zero_iff, crcbShift]
    split <;> simp

theorem crcbStep_eq (crc : Half) (b : Byte) : crcbStep crc b = crcbShift^[8] (crc ^^^ b.setWidth 16) :=
  crcbLoop_eq 8 _

/-- Where nothing stands in the low k bits, k turns only shift. -/
theorem crcbShift_iterate_of_lowBits_eq_zero {k : Nat} {r : Half} (h : ∀ i < k, r.getLsbD i = false) :
    crcbShift^[k] r = r >>> k := by
  induction k generalizing r with
  | zero => simp
  | succ k ih =>
    have hturn : crcbShift r = r >>> 1 := by
      rw [crcbShift, h 0 (Nat.succ_pos k)]
      exact BitVec.xor_zero
    have hrest : ∀ i < k, (r >>> 1).getLsbD i = false := fun i hi => by
      rw [BitVec.getLsbD_ushiftRight]
      exact h _ (by omega)
    rw [Function.iterate_succ_apply, hturn, ih hrest, Nat.add_comm, BitVec.shiftRight_add]

/-! ## The table form (R112 item 1) -/

theorem and_lowMask_eq (r : Half) : r &&& 0x00FF = (r.setWidth 8).setWidth 16 := by
  have hmask : (0x00FF : Half).toNat = 2 ^ 8 - 1 := rfl
  apply BitVec.eq_of_toNat_eq
  rw [BitVec.toNat_and, hmask, Nat.and_two_pow_sub_one_eq_mod, BitVec.toNat_setWidth, BitVec.toNat_setWidth]
  omega

theorem highByte_ushiftRight (r : Half) : ((r >>> 8) <<< 8) >>> 8 = r >>> 8 := by
  apply BitVec.eq_of_toNat_eq
  simp only [BitVec.toNat_ushiftRight, BitVec.toNat_shiftLeft, Nat.shiftLeft_eq, Nat.shiftRight_eq_div_pow]
  omega

/-- Eight turns move the high byte down whole. -/
theorem crcbShift_iterate_highByte (r : Half) : crcbShift^[8] ((r >>> 8) <<< 8) = r >>> 8 := by
  rw [crcbShift_iterate_of_lowBits_eq_zero, highByte_ushiftRight]
  intro i hi
  simp [hi]

/-- R112 item 1: the register's high byte is only shifted down, and the low byte of register and byte selects the entry. -/
theorem crcbStep_tableForm (crc : Half) (b : Byte) :
    crcbStep crc b = (crc >>> 8) ^^^ crcbStep ((crc ^^^ b.setWidth 16) &&& 0x00FF) 0 := by
  have hbyte : b.setWidth 16 >>> 8 = 0 := by
    apply BitVec.eq_of_toNat_eq
    simp only [BitVec.toNat_ushiftRight, BitVec.toNat_setWidth, Nat.shiftRight_eq_div_pow, BitVec.ofNat_eq_ofNat,
      BitVec.toNat_ofNat, Nat.zero_mod]
    omega
  have hhigh : (crc ^^^ b.setWidth 16) >>> 8 = crc >>> 8 := by
    rw [BitVec.ushiftRight_xor_distrib, hbyte]
    exact BitVec.xor_zero
  have hentry : crcbStep ((crc ^^^ b.setWidth 16) &&& 0x00FF) 0 =
      crcbShift^[8] (((crc ^^^ b.setWidth 16).setWidth 8).setWidth 16) := by
    rw [crcbStep_eq, and_lowMask_eq]
    simp
  rw [hentry, ← hhigh, ← crcbShift_iterate_highByte, ← crcbShift_xorLinear.iterate, ← half_eq_high_xor_low,
    crcbStep_eq]

/-- Settles O25: the table form, and the listed entries evaluated. -/
theorem crcbStepIsTheTableForm : Obligations.CrcbStepIsTheTableForm :=
  ⟨crcbStep_tableForm, by decide +kernel, by decide +kernel, by decide +kernel⟩

/-! ## The residue (R112 item 3) -/

/-- The register's own low byte leaves only its high byte. -/
theorem crcbStep_lowByte (crc : Half) : crcbStep crc (crc.setWidth 8) = crc >>> 8 := by
  have hhigh : crc ^^^ (crc.setWidth 8).setWidth 16 = (crc >>> 8) <<< 8 := by
    conv_lhs => lhs; rw [half_eq_high_xor_low crc]
    rw [BitVec.xor_assoc, BitVec.xor_self]
    exact BitVec.xor_zero
  rw [crcbStep_eq, hhigh, crcbShift_iterate_highByte]

theorem crcB_append_le16 (d : List Byte) : crcB (d ++ le16 (crcB d)) = 0 := by
  have hlow : (crcB d).extractLsb' 0 8 = (crcB d).setWidth 8 := rfl
  have hhigh : (crcB d).extractLsb' 8 8 = ((crcB d) >>> 8).setWidth 8 := rfl
  rw [crcB_append, le16, hlow, hhigh, List.foldl_cons, crcbStep_lowByte, List.foldl_cons, crcbStep_lowByte, List.foldl_nil,
    ← BitVec.shiftRight_add]
  exact BitVec.ushiftRight_eq_zero (Nat.le_refl 16)

/-- Settles O26: the CRC's low byte leaves its high byte in the register, and the high byte leaves 0. -/
theorem crcbResidueIsZero : Obligations.CrcbResidueIsZero := by
  intro d
  rw [bytesLE_toNat]
  exact crcB_append_le16 d

end Sys2Proof.Machine
end

section
/-! CRCA and CRCB as instructions, and the check values (R104, R114). -/

namespace Sys2Proof.Machine

open Sys2Proof.Expected

/-- An opcode whose row of the map is format Z meets the statement of that format (R71, R74). -/
theorem formatZ_of_decodeCommand {op : Nat} {i : Instr}
    (h : ∀ cw, (opField cw).toNat = op → decodeCommand cw = decodeZ cw i) : FormatZ op i := by
  intro cw hop
  have hopcode : BitVec.ofNat 8 cw.toNat = BitVec.ofNat 8 op := by
    apply BitVec.eq_of_toNat_eq
    rw [BitVec.toNat_ofNat, BitVec.toNat_ofNat]
    omega
  have hreserved : cw.toNat / 2 ^ 8 = 0 ↔ cw.toNat = op := by omega
  rw [decode, h cw ((opField_toNat cw).trans hop), decodeZ_eq_orIllegalOp, if_congr hreserved rfl rfl, ← hopcode]
  split <;> rfl

/-- The common end of R104 and R114 as a whole state. -/
theorem publishCrc_accept (c : Half) (cw : Word) (s : State) :
    publishCrc c (accept cw s) = completed s cw (bytesLE c.toNat) { Results.zero with crc := c, len := 2 } := by
  rw [bytesLE_toNat]
  rfl

/-- Settles O27: each sequence is evaluated. -/
theorem crcCheckValues : Obligations.CrcCheckValues :=
  ⟨by decide +kernel, by decide +kernel, by decide +kernel, by decide +kernel, crcB_nil⟩

/-- Settles O28: the operation publishes CRC-A of DIN_SNAP, opcode 0x01 is a format Z row, and the corner cases are
evaluated. -/
theorem crcaCompletes : Obligations.CrcaCompletes := by
  refine ⟨fun s => ?_, formatZ_of_decodeCommand fun cw hop => ?_, crcA_nil, by decide +kernel, by decide +kernel⟩
  · rw [exec_eq]
    exact congrArg Host.Outcome.next (publishCrc_accept _ _ s)
  · simp only [decodeCommand, hop]

/-- Settles O29: as CRCA does, with opcode 0x02; a whole ASCII frame ends in its own CRC-B, so the residue is left. -/
theorem crcbCompletes : Obligations.CrcbCompletes := by
  refine ⟨fun s => ?_, formatZ_of_decodeCommand fun cw hop => ?_, crcB_nil, by decide +kernel, by decide +kernel,
    fun addr acmd p => ?_⟩
  · rw [exec_eq]
    exact congrArg Host.Outcome.next (publishCrc_accept _ _ s)
  · simp only [decodeCommand, hop]
  · rw [asciiFrame_eq]
    exact crcB_append_le16 _

end Sys2Proof.Machine
end

section
/-! DECBB over a frame, whole or with one bit flipped (R130, R132). -/

namespace Sys2Proof.Machine

open Sys2Proof.Expected

theorem readExactDin_append {n : Nat} {a : List Byte} (h : a.length = n) (b : List Byte) :
    readExactDin n (a ++ b) = some (a, b) :=
  readExactDin_some_iff.mpr ⟨rfl, h⟩

/-- R130 over a header, a length field, a body of that length and a CRC, whatever follows (D25). -/
theorem decodeBinaryDin_parts (ev : Bool) (exp : Byte) {hdr lb body cb after : List Byte} {s : State}
    (hdin : s.dinSnap = hdr ++ lb ++ body ++ cb ++ after) (hhdr : hdr.length = 3) (hlb : lb.length = 2)
    (hbody : body.length = (rdLe16 lb 0).toNat) (hcb : cb.length = 2) :
    decodeBinaryDin ev exp s =
      if hdr ≠ headerBytes s.cfgHeader then raise .badHeader s else checkBinary ev exp body (rdLe16 cb 0) s := by
  simp only [List.append_assoc] at hdin
  simp only [decodeBinaryDin, hdin, readExactDin_append hhdr, readExactDin_append hlb, readExactDin_append hbody,
    readExactDin_append hcb]

/-- DECBB where DIN holds such parts and no more, the length field being the body's length. -/
theorem exec_decbb_parts (ev : Bool) (exp : Byte) {hdr body cb : List Byte} {s : State} (hv : s.cfgVariant = .binary)
    (hdin : s.din = hdr ++ le16 (BitVec.ofNat 16 body.length) ++ body ++ cb) (hhdr : hdr.length = 3)
    (hfits : body.length ≤ 65535) (hcb : cb.length = 2) :
    exec (.decbb ev exp) s =
      .next (if hdr ≠ headerBytes s.cfgHeader then failed s (commandWord (.decbb ev exp)) .badHeader 0
        else checkBinary ev exp body (rdLe16 cb 0) (accept (commandWord (.decbb ev exp)) s)) := by
  have hlen : body.length = (rdLe16 (le16 (BitVec.ofNat 16 body.length)) 0).toNat := by
    rw [rdLe16_le16, BitVec.toNat_ofNat]
    omega
  have hparts : (accept (commandWord (.decbb ev exp)) s).dinSnap =
      hdr ++ le16 (BitVec.ofNat 16 body.length) ++ body ++ cb ++ [] := by
    rw [accept_dinSnap, hdin, List.append_nil]
  rw [exec_of_gate (op := decodeBinaryDin ev exp) (fun _ => rfl) (fun _ => rfl) hv,
    decodeBinaryDin_parts ev exp hparts hhdr (le16_length _) hlen hcb]
  rfl

/-- A CRC other than the body's ends DECBB before the expected code is looked at (R125). -/
theorem exec_decbb_of_crc_ne (ev : Bool) (exp : Byte) {body cb : List Byte} {s : State} (hv : s.cfgVariant = .binary)
    (hdin : s.din = headerBytes s.cfgHeader ++ le16 (BitVec.ofNat 16 body.length) ++ body ++ cb)
    (hfits : body.length ≤ 65535) (hcb : cb.length = 2) (hcrc : crcA body ≠ rdLe16 cb 0) :
    exec (.decbb ev exp) s = .next (failed s (commandWord (.decbb ev exp)) .crcMismatch 0) := by
  rw [exec_decbb_parts ev exp hv hdin (headerBytes_length _) hfits hcb, if_neg (not_not_intro rfl)]
  exact congrArg Host.Outcome.next (if_pos hcrc)

/-! ## One flipped bit -/

@[simp] theorem flipBit_length (d : List Byte) (i k : Nat) : (flipBit d i k).length = d.length := List.length_set

/-- A flipped bit changes the sequence: CRC-A tells the two apart. -/
theorem flipBit_ne {d : List Byte} {i k : Nat} (hi : i < d.length) (hk : k < 8) : flipBit d i k ≠ d :=
  fun h => crcaDetectsEverySingleBitChange d i k hi hk (congrArg crcA h)

theorem flipBit_append_left {a : List Byte} {i : Nat} (hi : i < a.length) (b : List Byte) (k : Nat) :
    flipBit (a ++ b) i k = flipBit a i k ++ b := by
  rw [flipBit, flipBit, List.set_append_left _ _ hi, List.getD_append _ _ _ _ hi]

theorem flipBit_append_right {a : List Byte} {i : Nat} (hi : a.length ≤ i) (b : List Byte) (k : Nat) :
    flipBit (a ++ b) i k = a ++ flipBit b (i - a.length) k := by
  rw [flipBit, flipBit, List.set_append_right _ _ hi, List.getD_append_right _ _ _ _ hi]

/-- The two bytes of a flipped CRC field are another number. -/
theorem rdLe16_flipBit_le16_ne (v : Half) {i k : Nat} (hi : i < 2) (hk : k < 8) : rdLe16 (flipBit (le16 v) i k) 0 ≠ v := by
  intro h
  obtain ⟨b0, b1, hbytes⟩ := List.length_eq_two.mp (flipBit_length (le16 v) i k)
  rw [hbytes] at h
  refine flipBit_ne (d := le16 v) hi hk ?_
  rw [hbytes, ← h, le16_rdLe16]

/-- Settles O33: the flipped bit stands in the header, in the body, or in the CRC. -/
theorem singleBitCorruptionIsDetected : Obligations.SingleBitCorruptionIsDetected := by
  intro ev exp body i k s hv _ hfits hi hk hdin
  rw [frame_eq_binaryFrame, binaryFrame] at hdin
  have hfixed : (headerBytes s.cfgHeader ++ le16 (BitVec.ofNat 16 body.length)).length = 5 := rfl
  have hcovered : (headerBytes s.cfgHeader ++ le16 (BitVec.ofNat 16 body.length) ++ body).length = 5 + body.length := by
    rw [List.length_append, hfixed]
  refine ⟨fun hge => ?_, fun hlt => ?_⟩
  · by_cases hbody : i < 5 + body.length
    · have hlen : (flipBit body (i - 5) k).length = body.length := flipBit_length _ _ _
      rw [flipBit_append_left (by omega), flipBit_append_right (by omega), hfixed, ← hlen] at hdin
      refine exec_decbb_of_crc_ne ev exp hv hdin (by omega) (le16_length _) ?_
      rw [rdLe16_le16]
      exact crcaDetectsEverySingleBitChange _ _ _ (by omega) hk
    · rw [flipBit_append_right (by omega), hcovered] at hdin
      exact exec_decbb_of_crc_ne ev exp hv hdin hfits (flipBit_length _ _ _)
        (rdLe16_flipBit_le16_ne _ (by omega) hk).symm
  · have hheader : i < (headerBytes s.cfgHeader).length := hlt
    rw [List.append_assoc, List.append_assoc, flipBit_append_left hheader, ← List.append_assoc, ← List.append_assoc]
      at hdin
    rw [exec_decbb_parts ev exp hv hdin (flipBit_length _ _ _) hfits (le16_length _), if_pos (flipBit_ne hheader hk)]

end Sys2Proof.Machine
end

section
/-! ENCB, and what it encodes decoded again (R120, R131). -/

namespace Sys2Proof.Machine

open Sys2Proof.Expected

/-! ## ENCB -/

/-- ENCB in BINARY, for a payload that fits (R120). -/
theorem exec_encb (cmd : Byte) {s : State} (hv : s.cfgVariant = .binary) (hfits : s.din.length ≤ 65534) :
    exec (.encb cmd) s =
      .next (completed s (commandWord (.encb cmd)) (binaryFrame s.cfgHeader (cmd :: s.din))
        { Results.zero with crc := crcA (cmd :: s.din), len := BitVec.ofNat 32 (s.din.length + 8) }) := by
  rw [exec_of_gate (op := encodeBinary cmd) (fun _ => rfl) (fun _ => rfl) hv, encodeBinary_accept _ _ hfits]

/-- A word's opcode is its number's low byte. -/
theorem ofNat_opcode {cw : Word} {op : Nat} (hop : cw.toNat % 256 = op) : BitVec.ofNat 8 cw.toNat = BitVec.ofNat 8 op := by
  apply BitVec.eq_of_toNat_eq
  rw [BitVec.toNat_ofNat, BitVec.toNat_ofNat]
  omega

/-- An opcode whose row of the map is format B meets the statement of that format (R71, R74). -/
theorem formatB_of_decodeCommand {op : Nat} {f : Byte → Instr}
    (h : ∀ cw, (opField cw).toNat = op → decodeCommand cw = decodeB cw f) : FormatB op f := by
  intro cw hop
  have hreserved : cw.toNat / 2 ^ 16 = 0 ↔ cw.toNat < 2 ^ 16 := by omega
  rw [decode, h cw ((opField_toNat cw).trans hop), decodeB_eq_orIllegalOp, if_congr hreserved rfl rfl, ← ofNat_opcode hop]
  split <;> rfl

/-- Settles O30: opcode 0x10 is a format B row, and the gated operation encodes what fits. -/
theorem encbCompletes : Obligations.EncbCompletes := by
  refine ⟨formatB_of_decodeCommand fun cw hop => ?_, fun cmd =>
    ⟨onlyIn_of_gate (fun _ => rfl) (fun _ => rfl), fun s hv => ⟨fun hfits => ?_, fun hlong => ?_⟩⟩⟩
  · simp only [decodeCommand, hop]
  · rw [exec_encb cmd hv hfits, frame_eq_binaryFrame]
  · rw [exec_of_gate (op := encodeBinary cmd) (fun _ => rfl) (fun _ => rfl) hv]
    exact congrArg Host.Outcome.next (if_pos hlong)

/-! ## The round trip (R131) -/

/-- DECBB over the frame of a body that begins with the code expected delivers the body. -/
theorem exec_decbb_binaryFrame (cmd : Byte) {payload : List Byte} {s : State} (hv : s.cfgVariant = .binary)
    (hfits : payload.length ≤ 65534) (hdin : s.din = binaryFrame s.cfgHeader (cmd :: payload)) :
    exec (.decbb true cmd) s =
      .next (deliverBody (cmd :: payload) (accept (commandWord (.decbb true cmd)) s)) := by
  rw [exec_decbb_parts true cmd hv hdin (headerBytes_length _) (Nat.succ_le_succ hfits) (le16_length _),
    if_neg (not_not_intro rfl), rdLe16_le16, checkBinary_expected]

/-- DECB's accept on a block that goes on holding `rest`, es being the moves to come (R40). -/
def decbAccepted (ev : Bool) (exp : Byte) (rest : List PortAction) (es : List EnvEvent) (s : State) : State :=
  accept (commandWord (.decb ev exp)) { s with port := rest, sched := es }

/-- On its turn an idle block in BINARY accepts the DECB first on its port and begins the header read. -/
theorem step_decb {ev : Bool} {exp : Byte} {rest : List PortAction} {es : List EnvEvent} {s : State}
    (hv : s.cfgVariant = .binary) (hexp : ev = false → exp = 0) (hturn : TurnAt s es)
    (hport : s.port = .word (.command (commandWord (.decb ev exp))) :: rest) :
    step s = .next (startDecb (decbAccepted ev exp rest es s)) := by
  have hwf : (Instr.decb ev exp).wellFormed = true := by
    cases ev with
    | true => rfl
    | false => rw [hexp rfl]; rfl
  have hdecode : decode (.command (commandWord (.decb ev exp))) = .ok (.decb ev exp) := by
    rw [commandWord_decb]
    exact decodeOfEncodeIsTheInstruction _ hwf
  rw [step_of_turnAt hturn hport]
  exact (runWord_of_ok hdecode).trans (exec_of_gate (fun _ => rfl) (fun _ => rfl) hv)

/-- DECB over a stream that begins with the frame of a body delivers the body, where the code expected is its first byte. -/
theorem startDecb_reaches_deliverBody (cmd : Byte) {h : Header} {payload after : List Byte} {ks : List Nat}
    {es : List EnvEvent} {s : State} (hdelivering : Delivering (binaryFrame h (cmd :: payload)) after ks es s)
    (hheader : s.cfgHeader = h) (hlatch : s.cmdLatch = commandWord (.decb true cmd)) (hfits : payload.length ≤ 65534) :
    ∃ ks', Reaches (startDecb s)
      (deliverBody (cmd :: payload) (decbGathered (cmd :: payload) after (deliveries ks' ++ es) s)) := by
  subst hheader
  obtain ⟨ks', hreach⟩ := startDecb_reaches_check hdelivering (Nat.le_add_left 1 _) (Nat.succ_le_succ hfits)
  rw [hlatch, commandWord_decb, evField_encodeE, byteField2_encodeE, checkBinary_expected] at hreach
  exact ⟨ks', hreach⟩

/-- Settles O32: ENCB leaves the frame of the body in DOUT, and DECBB and DECB deliver the body of that frame. -/
theorem encodeThenDecodeGivesTheBody : Obligations.EncodeThenDecodeGivesTheBody := by
  intro cmd s hv hfits
  refine ⟨_, exec_encb cmd hv hfits, rfl, ⟨_, exec_decbb_binaryFrame cmd hv hfits rfl, rfl, rfl⟩, ?_⟩
  intro ks rest after v hvv hheader hturn hport hstream henough
  have ⟨hbound, _, _⟩ := hturn
  have hdelivering : Delivering (binaryFrame s.cfgHeader (cmd :: s.din)) after ks []
      (decbAccepted true cmd rest (deliveries ks) v) :=
    { bound := hbound, busy := rfl, stream := hstream, sched := (List.append_nil _).symm, enough := henough }
  obtain ⟨ks', hreach⟩ := startDecb_reaches_deliverBody cmd hdelivering hheader rfl hfits
  obtain ⟨n, hrun⟩ := (reaches_of_step (step_decb (ev := true) hvv nofun hturn hport)).trans hreach
  exact ⟨n, _, hrun, rfl, rfl, rfl⟩

end Sys2Proof.Machine
end

section
/-! R124 and R130 read off a byte sequence: what ends DECB and DECBB, and the state they end
in. DECBB over every DIN (R130). -/

namespace Sys2Proof.Machine

open Sys2Proof.Expected

/-- An opcode whose row of the map is format E meets the statement of that format (R71, R74). -/
theorem formatE_of_decodeCommand {op : Nat} {f : Bool → Byte → Instr}
    (h : ∀ cw, (opField cw).toNat = op → decodeCommand cw = decodeE cw f) : FormatE op f := by
  intro cw hop
  have hreserved : (cw.toNat / 2 ^ 24 = 0 ∧ cw.toNat / 2 ^ 9 % 2 ^ 7 = 0 ∧
        ¬(cw.toNat / 2 ^ 8 % 2 = 0 ∧ cw.toNat / 2 ^ 16 % 2 ^ 8 ≠ 0)) ↔
      cw.toNat < 2 ^ 24 ∧ cw.toNat / 512 % 128 = 0 ∧ (cw.toNat / 256 % 2 = 0 → cw.toNat / 65536 = 0) := by omega
  rw [decode, h cw ((opField_toNat cw).trans hop), decodeE_eq_orIllegalOp, if_congr hreserved rfl rfl, ← ofNat_opcode hop]
  split <;> rfl

/-! ## The end of an operation with a given outcome -/

/-- The state in which an operation ends with the outcome given: the error, the code kept, the body (R41, R221, R222). -/
def conclude (o : Err × Byte × List Byte) (s : State) : State :=
  match o with
  | (.ok, _, body) => ended s body (frameResults body)
  | (e, code, _) => { aborted s e with res := { Results.zero with code := code } }

/-- What the environment sees of the end is the outcome alone. -/
theorem conclude_visible (o : Err × Byte × List Byte) (s t : State) : (conclude o s).visible = (conclude o t).visible := by
  unfold conclude
  split <;> rfl

@[simp] theorem conclude_status (o : Err × Byte × List Byte) (s : State) :
    (conclude o s).status = Status.completed o.1 := by
  unfold conclude
  split <;> rfl

@[simp] theorem conclude_stream (o : Err × Byte × List Byte) (s : State) : (conclude o s).stream = s.stream := by
  unfold conclude
  split <;> rfl

theorem conclude_dout {o : Err × Byte × List Byte} (h : o.1 = .ok) (s : State) : (conclude o s).dout = o.2.2 := by
  obtain ⟨e, code, body⟩ := o
  cases h
  rfl

/-! ## The checks on a body -/

/-- R124's checks on a body and the CRC received with it, in R125's order: CRC, empty body, expected code. -/
def checkOutcome (ev : Bool) (exp : Byte) (body : List Byte) (rx : Half) : Err × Byte × List Byte :=
  if crcA body ≠ rx then (.crcMismatch, 0, [])
  else if ev = true ∧ body = [] then (.truncated, 0, [])
  else if ev = true ∧ body.headD 0 ≠ exp then (.unexpectedCommand, body.headD 0, [])
  else (.ok, 0, body)

/-- Only the body itself is delivered. -/
theorem checkOutcome_body {ev : Bool} {exp : Byte} {body : List Byte} {rx : Half}
    (h : (checkOutcome ev exp body rx).1 = .ok) : (checkOutcome ev exp body rx).2.2 = body := by
  revert h
  unfold checkOutcome
  split
  · nofun
  split
  · nofun
  split
  · nofun
  · exact fun _ => rfl

theorem deliverBody_eq_conclude (body : List Byte) {s : State} (hres : s.res = Results.zero) :
    deliverBody body s = conclude (.ok, 0, body) s := by
  have hcmd : byteAt body 0 = body.headD 0 := by cases body <;> rfl
  rw [deliverBody, hres, hcmd]
  rfl

theorem checkBinary_eq_conclude (ev : Bool) (exp : Byte) (body : List Byte) (rx : Half) {s : State}
    (hres : s.res = Results.zero) : checkBinary ev exp body rx s = conclude (checkOutcome ev exp body rx) s := by
  unfold checkBinary checkOutcome
  split
  · rfl
  · cases ev with
    | false => exact deliverBody_eq_conclude body hres
    | true =>
      cases body with
      | nil => rfl
      | cons b rest =>
        by_cases hb : b = exp
        · simpa [hb] using deliverBody_eq_conclude (exp :: rest) hres
        · simp only [ne_eq, hb, not_false_eq_true, if_true, reduceCtorEq, and_false, if_false, List.headD_cons, and_self]
          rfl

/-! ## A byte sequence read as a frame -/

/-- What R124 finds in the bytes d under header h: where they end or fail a check, or the checks on the body. -/
inductive FrameReading (h : Header) (ev : Bool) (exp : Byte) : List Byte → Err × Byte × List Byte → Prop where
  | endsInHeader {d : List Byte} (hd : d.length < 3) : FrameReading h ev exp d (.disconnected, 0, [])
  | badHeader {hdr : List Byte} (rest : List Byte) (hhdr : hdr.length = 3) (hne : hdr ≠ headerBytes h) :
      FrameReading h ev exp (hdr ++ rest) (.badHeader, 0, [])
  | endsInLength {d : List Byte} (hd : d.length < 2) :
      FrameReading h ev exp (headerBytes h ++ d) (.disconnected, 0, [])
  | endsInBody {lb d : List Byte} (hlb : lb.length = 2) (hd : d.length < (rdLe16 lb 0).toNat) :
      FrameReading h ev exp (headerBytes h ++ (lb ++ d)) (.disconnected, 0, [])
  | endsInCrc {lb body d : List Byte} (hlb : lb.length = 2) (hbody : body.length = (rdLe16 lb 0).toNat)
      (hd : d.length < 2) : FrameReading h ev exp (headerBytes h ++ (lb ++ (body ++ d))) (.disconnected, 0, [])
  | complete {lb body cb : List Byte} (after : List Byte) (hlb : lb.length = 2)
      (hbody : body.length = (rdLe16 lb 0).toNat) (hcb : cb.length = 2) :
      FrameReading h ev exp (headerBytes h ++ (lb ++ (body ++ (cb ++ after)))) (checkOutcome ev exp body (rdLe16 cb 0))

/-- A sequence of at least n bytes is n bytes and a rest. -/
theorem exists_append_of_le_length {n : Nat} {d : List Byte} (h : n ≤ d.length) : ∃ a b, d = a ++ b ∧ a.length = n :=
  ⟨d.take n, d.drop n, (List.take_append_drop n d).symm, List.length_take_of_le h⟩

/-- Every byte sequence is read in one of these ways. -/
theorem exists_frameReading (h : Header) (ev : Bool) (exp : Byte) (d : List Byte) : ∃ o, FrameReading h ev exp d o := by
  rcases Nat.lt_or_ge d.length 3 with hd | hd
  · exact ⟨_, .endsInHeader hd⟩
  obtain ⟨hdr, d1, rfl, hhdr⟩ := exists_append_of_le_length hd
  by_cases hne : hdr ≠ headerBytes h
  · exact ⟨_, .badHeader d1 hhdr hne⟩
  obtain rfl : hdr = headerBytes h := not_not.mp hne
  rcases Nat.lt_or_ge d1.length 2 with hd1 | hd1
  · exact ⟨_, .endsInLength hd1⟩
  obtain ⟨lb, d2, rfl, hlb⟩ := exists_append_of_le_length hd1
  rcases Nat.lt_or_ge d2.length (rdLe16 lb 0).toNat with hd2 | hd2
  · exact ⟨_, .endsInBody hlb hd2⟩
  obtain ⟨body, d3, rfl, hbody⟩ := exists_append_of_le_length hd2
  rcases Nat.lt_or_ge d3.length 2 with hd3 | hd3
  · exact ⟨_, .endsInCrc hlb hbody hd3⟩
  obtain ⟨cb, after, rfl, hcb⟩ := exists_append_of_le_length hd3
  exact ⟨_, .complete after hlb hbody hcb⟩

/-! ## The statements' flat reading is this one -/

theorem rdLe16_toNat (d : List Byte) (i : Nat) : (rdLe16 d i).toNat = pairLE (d.getD i 0) (d.getD (i + 1) 0) := by
  have hlo := (byteAt d i).isLt
  have hhi := (byteAt d (i + 1)).isLt
  rw [rdLe16, BitVec.or_comm, BitVec.toNat_or, BitVec.toNat_shiftLeft, BitVec.toNat_setWidth, BitVec.toNat_setWidth,
    Nat.mod_eq_of_lt (a := (byteAt d i).toNat) (by omega), Nat.mod_eq_of_lt (a := (byteAt d (i + 1)).toNat) (by omega),
    Nat.mod_eq_of_lt (by rw [Nat.shiftLeft_eq]; omega), shiftLeft_or_byte _ hlo, Nat.add_comm]
  rfl

/-- The flat reading past the length field: too few bytes, or the checks on as many as it says. -/
theorem binaryOutcome_of_length {h : Header} {ev : Bool} {exp : Byte} {lb : List Byte} (rest : List Byte)
    (hlb : lb.length = 2) :
    binaryOutcome h ev exp (headerBytes h ++ (lb ++ rest)) =
      if rest.length < (rdLe16 lb 0).toNat + 2 then (.disconnected, 0, [])
      else checkOutcome ev exp (rest.take (rdLe16 lb 0).toNat) (rdLe16 rest (rdLe16 lb 0).toNat) := by
  obtain ⟨lo, hi, rfl⟩ := List.length_eq_two.mp hlb
  have hlen : pairLE lo hi = (rdLe16 [lo, hi] 0).toNat := (rdLe16_toNat [lo, hi] 0).symm
  generalize (rdLe16 [lo, hi] 0).toNat = n at hlen
  have hfive : 5 + n = n + 1 + 1 + 1 + 1 + 1 := by omega
  have hsix : 6 + n = n + 1 + 1 + 1 + 1 + 1 + 1 := by omega
  have hlong : ¬ rest.length + 5 < 3 ∧ ¬ rest.length + 5 < 5 := by omega
  have hshort : rest.length + 5 < n + 7 ↔ rest.length < n + 2 := by omega
  simp only [binaryOutcome, headerBytes, List.cons_append, List.nil_append, List.length_cons, List.getD_cons_succ,
    List.getD_cons_zero, hlen, hfive, hsix, List.take_succ_cons, List.take_zero, List.drop_succ_cons, List.drop_zero,
    ne_eq, not_true_eq_false, if_false, hlong, hshort, ← rdLe16_toNat, BitVec.toNat_inj, checkOutcome]
  split
  · rfl
  next henough =>
  cases rest with
  | nil => exact absurd (Nat.succ_pos _) henough
  | cons b tail =>
    cases n with
    | zero => cases ev <;> simp
    | succ n => simp

/-- R124 and R130 in the statements' words: the bytes are read as `binaryOutcome` says. -/
theorem frameReading_binaryOutcome (h : Header) (ev : Bool) (exp : Byte) (d : List Byte) :
    FrameReading h ev exp d (binaryOutcome h ev exp d) := by
  obtain ⟨o, hread⟩ := exists_frameReading h ev exp d
  suffices heq : binaryOutcome h ev exp d = o from heq ▸ hread
  cases hread with
  | endsInHeader hd => exact if_pos hd
  | @badHeader hdr rest hhdr hne =>
    have hlong : ¬ (hdr ++ rest).length < 3 := by
      rw [List.length_append, hhdr]
      omega
    exact (if_neg hlong).trans (if_pos ((List.take_left' hhdr).trans_ne hne))
  | @endsInLength rest hd =>
    have hlen : (headerBytes h ++ rest).length = rest.length + 3 := List.length_append.trans (Nat.add_comm _ _)
    have hlong : ¬ (headerBytes h ++ rest).length < 3 := by omega
    have hshort : (headerBytes h ++ rest).length < 5 := by omega
    simp only [binaryOutcome, hlong, hshort, if_false, if_true]
    exact if_neg (not_not_intro rfl)
  | endsInBody hlb hd => rw [binaryOutcome_of_length _ hlb, if_pos (by omega)]
  | endsInCrc hlb hbody hd =>
    rw [binaryOutcome_of_length _ hlb, if_pos]
    rw [List.length_append]
    omega
  | @complete lb body cb after hlb hbody hcb =>
    have hrx : rdLe16 (body ++ (cb ++ after)) (rdLe16 lb 0).toNat = rdLe16 cb 0 := by
      obtain ⟨c0, c1, rfl⟩ := List.length_eq_two.mp hcb
      rw [← hbody]
      exact rdLe16_append_right body _ 0
    rw [binaryOutcome_of_length _ hlb, if_neg, List.take_left' hbody, hrx]
    simp only [List.length_append]
    omega

/-! ## DECBB on each reading -/

theorem readExactDin_of_lt {n : Nat} {d : List Byte} (h : d.length < n) : readExactDin n d = none := if_pos h

/-- R130: DECBB ends with what its bytes are read as. -/
theorem decodeBinaryDin_eq_conclude {ev : Bool} {exp : Byte} {o : Err × Byte × List Byte} {s : State}
    (hread : FrameReading s.cfgHeader ev exp s.dinSnap o) (hres : s.res = Results.zero) :
    decodeBinaryDin ev exp s = conclude o s := by
  have hheader := readExactDin_append (headerBytes_length s.cfgHeader)
  generalize hdin : s.dinSnap = d at hread
  cases hread with
  | endsInHeader hd =>
    simp only [decodeBinaryDin, hdin, readExactDin_of_lt hd]
    rfl
  | badHeader rest hhdr hne =>
    simp only [decodeBinaryDin, hdin, readExactDin_append hhdr, if_pos hne]
    rfl
  | endsInLength hd =>
    simp only [decodeBinaryDin, hdin, hheader, ne_eq, not_true_eq_false, if_false, readExactDin_of_lt hd]
    rfl
  | endsInBody hlb hd =>
    simp only [decodeBinaryDin, hdin, hheader, ne_eq, not_true_eq_false, if_false,
      readExactDin_append hlb, readExactDin_of_lt hd]
    rfl
  | endsInCrc hlb hbody hd =>
    simp only [decodeBinaryDin, hdin, hheader, ne_eq, not_true_eq_false, if_false,
      readExactDin_append hlb, readExactDin_append hbody, readExactDin_of_lt hd]
    rfl
  | complete after hlb hbody hcb =>
    simp only [decodeBinaryDin, hdin, hheader, ne_eq, not_true_eq_false, if_false,
      readExactDin_append hlb, readExactDin_append hbody, readExactDin_append hcb]
    exact checkBinary_eq_conclude _ _ _ _ hres

/-- DECBB in BINARY, over every content of DIN (R130). -/
theorem exec_decbb (ev : Bool) (exp : Byte) {s : State} (hv : s.cfgVariant = .binary) :
    exec (.decbb ev exp) s =
      .next (conclude (binaryOutcome s.cfgHeader ev exp s.din) (accept (commandWord (.decbb ev exp)) s)) := by
  rw [exec_of_gate (op := decodeBinaryDin ev exp) (fun _ => rfl) (fun _ => rfl) hv]
  exact congrArg Host.Outcome.next (decodeBinaryDin_eq_conclude (frameReading_binaryOutcome _ ev exp s.din) rfl)

/-- Settles O31: opcode 0x12 is a format E row, and the gated operation ends as its bytes are read. -/
theorem decbbCompletes : Obligations.DecbbCompletes := by
  refine ⟨formatE_of_decodeCommand fun cw hop => ?_, fun ev exp =>
    ⟨onlyIn_of_gate (fun _ => rfl) (fun _ => rfl), fun s hv => ?_⟩⟩
  · simp only [decodeCommand, hop]
  · rw [exec_decbb ev exp hv]
    generalize binaryOutcome s.cfgHeader ev exp s.din = o
    obtain ⟨e, code, body⟩ := o
    cases e <;> rfl

end Sys2Proof.Machine
end

section
/-! DECB phase by phase (R124, R180, R186). -/

namespace Sys2Proof.Machine

open Sys2Proof.Expected

/-- Every read of DECB is a read_exact (R124). -/
theorem exactPhase_of_decbPhase {p : Phase} (h : decbPhase p = true) : exactPhase p = true := by
  cases p with
  | idle | aRead | xRead | rRead => cases h
  | bHdr | bLen | bBody | bCrc => rfl

/-- The chunk with the last bytes that were missing takes a read_exact to its continuation (R180). -/
theorem takeAnswer_chunk_of_complete {p : Phase} {k : List Byte → State → State} (hk : ReadsExactly p k)
    {bytes : List Byte} {s : State} (hp : s.phase = p) (h : s.rxbuf.length + bytes.length = s.need.toNat) :
    takeAnswer (.chunk bytes) s = k (s.rxbuf ++ bytes) { s with rxbuf := s.rxbuf ++ bytes } := by
  obtain ⟨-, hanswer⟩ := hk
  rw [hanswer _ s hp]
  exact if_neg (by rw [List.length_append]; exact h.ge.not_gt)

/-- The length field [lo, hi] as R124 reads it. -/
theorem rdLe16_pair (lo hi : Byte) : rdLe16 [lo, hi] 0 = BitVec.ofNat 16 (pairLE lo hi) := by
  have h : (rdLe16 [lo, hi] 0).toNat = pairLE lo hi := rdLe16_toNat [lo, hi] 0
  rw [← h, BitVec.ofNat_toNat, BitVec.setWidth_eq]

/-- Which way DECB goes on from the length field: a body of L = 0 is complete at once (R124, R186). -/
theorem decbAfterLength_pair (lo hi : Byte) (s : State) :
    decbAfterLength [lo, hi] s =
      if pairLE lo hi = 0 then { s with bLenVal := 0, bodybuf := [], phase := .bCrc, need := 2, rxbuf := [] }
      else
        { s with
          bLenVal := BitVec.ofNat 16 (pairLE lo hi), phase := .bBody, need := BitVec.ofNat 16 (pairLE lo hi), rxbuf := [] } := by
  have hzero : rdLe16 [lo, hi] 0 = 0 ↔ pairLE lo hi = 0 := by
    rw [← BitVec.toNat_inj, rdLe16_toNat]
    rfl
  simp only [decbAfterLength, hzero]
  split
  · next hempty =>
    rw [hzero.mpr hempty]
    rfl
  · rw [rdLe16_pair]
    rfl

/-- DECB ends with the outcome of its checks, once its CRC has come (R124). -/
theorem decbAfterCrc_eq_conclude {ev : Bool} {exp : Byte} (cb : List Byte) {s : State}
    (hlatch : s.cmdLatch = commandWord (.decb ev exp)) (hres : s.res = Results.zero) :
    decbAfterCrc cb s = conclude (checkOutcome ev exp s.bodybuf (rdLe16 cb 0)) s := by
  have hev : evField s.cmdLatch = ev := by rw [hlatch, commandWord_decb, evField_encodeE]
  have hexp : byteField2 s.cmdLatch = exp := by rw [hlatch, commandWord_decb, byteField2_encodeE]
  rw [decbAfterCrc, hev, hexp, checkBinary_eq_conclude _ _ _ _ (by exact hres)]
  unfold conclude
  split <;> rfl

/-- Those checks written out, for the CRC [lo, hi] (R124, R125). -/
theorem decbAfterCrc_pair {ev : Bool} {exp : Byte} (lo hi : Byte) {s : State}
    (hlatch : s.cmdLatch = commandWord (.decb ev exp)) (hres : s.res = Results.zero) :
    decbAfterCrc [lo, hi] s =
      if (crcA s.bodybuf).toNat ≠ pairLE lo hi then aborted s .crcMismatch
      else if ev = true ∧ s.bodybuf = [] then aborted s .truncated
      else if ev = true ∧ s.bodybuf.headD 0 ≠ exp then
        { aborted s .unexpectedCommand with res := { Results.zero with code := s.bodybuf.headD 0 } }
      else ended s s.bodybuf (frameResults s.bodybuf) := by
  have hcrc : crcA s.bodybuf ≠ rdLe16 [lo, hi] 0 ↔ (crcA s.bodybuf).toNat ≠ pairLE lo hi := by
    rw [ne_eq, ← BitVec.toNat_inj, rdLe16_toNat]
    rfl
  rw [decbAfterCrc_eq_conclude _ hlatch hres, checkOutcome, if_congr hcrc rfl rfl]
  split
  · rfl
  split
  · rfl
  split <;> rfl

/-- Settles O35: opcode 0x11 is a format E row, DECB begins with the header read, and each of its reads goes on from its bytes. -/
theorem decbFollowsRule124 : Obligations.DecbFollowsRule124 := by
  refine ⟨formatE_of_decodeCommand fun cw hop => ?_, fun ev exp => onlyIn_of_gate (fun _ => rfl) (fun _ => rfl),
    fun ev exp s hv => exec_of_gate (i := .decb ev exp) (fun _ => rfl) (fun _ => rfl) hv, fun s hp => ?_, ?_, ?_, ?_, ?_⟩
  · simp only [decodeCommand, hop]
  · have hx := exactPhase_of_decbPhase hp
    refine ⟨requestSize_of_exact hx, ?_, ?_⟩
    · obtain ⟨k, hk⟩ := takeAnswer_of_exact .closed hx
      rw [hk]
      rfl
    · obtain ⟨k, hk⟩ := takeAnswer_of_exact .timedOut hx
      rw [hk]
      rfl
  · intro bytes s hp hneed hbytes
    rw [takeAnswer_chunk_of_complete readsExactly_bHdr hp (by rw [hneed]; exact hbytes)]
    simp only [decbAfterHeader, ne_eq, ite_not]
    rfl
  · intro lo hi bytes s hp hneed hbytes
    have hlen : s.rxbuf.length + bytes.length = 2 := by rw [← List.length_append, hbytes]; rfl
    rw [takeAnswer_chunk_of_complete readsExactly_bLen hp (by rw [hneed]; exact hlen), hbytes, decbAfterLength_pair]
  · intro bytes s hp hbytes
    rw [takeAnswer_chunk_of_complete readsExactly_bBody hp hbytes]
    rfl
  · intro ev exp lo hi bytes s hp hneed hbytes hlatch hres
    have hlen : s.rxbuf.length + bytes.length = 2 := by rw [← List.length_append, hbytes]; rfl
    rw [takeAnswer_chunk_of_complete readsExactly_bCrc hp (by rw [hneed]; exact hlen), hbytes]
    exact decbAfterCrc_pair lo hi hlatch hres

end Sys2Proof.Machine
end

section
/-! DECB over a stream that carries any bytes and then closes (R133, R181, R182): it ends as those bytes are read. -/

namespace Sys2Proof.Machine

open Sys2Proof.Expected

/-! ## A read_exact whose bytes do not all come -/

/-- An open stream answers a wish to deliver with a chunk of what stands on it, or not yet (R55). -/
theorem oracle_deliver_of_open {r k : Nat} {d : List Byte} {ans : Answer} {st : Stream}
    (h : oracle r (.deliver k) { unread := d, shut := false } = some (ans, st)) :
    ∃ bytes rest, d = bytes ++ rest ∧ ans = .chunk bytes ∧ st = { unread := rest, shut := false } := by
  cases d with
  | nil => cases h
  | cons b tail =>
    cases h
    exact ⟨_, _, (List.take_append_drop (chunkSize r k) _).symm, rfl, rfl⟩

/-- A read_exact in progress lacks more than the bytes d on the open stream; answers that deliver come, of the wished sizes ks,
and then Closed. -/
structure Starving (d : List Byte) (ks : List Nat) (s : State) : Prop where
  bound : 6 ≤ s.cfgAsciiMax.toNat
  busy : s.status.busy = true
  inExact : exactPhase s.phase = true
  lacks : s.rxbuf.length + d.length < s.need.toNat
  stream : s.stream = { unread := d, shut := false }
  sched : s.sched = deliveries ks ++ [.answer .close]

/-- An answer that delivers leaves the read waiting for the bytes that do not come (R180, R281). -/
theorem Starving.step_deliver {d : List Byte} {k : Nat} {ks : List Nat} {s : State} (h : Starving d (k :: ks) s) :
    ∃ rest t, step s = .next t ∧ rest <:+ d ∧ Starving rest ks t := by
  have hstep : step s = .next (readStep (.deliver k) { s with sched := deliveries ks ++ [.answer .close] }) :=
    step_of_cons ((asciiMaxLegal_iff _).mpr h.bound) h.sched
  rw [hstep]
  rcases readStep_cases (.deliver k) { s with sched := deliveries ks ++ [.answer .close] } with
    hwaits | ⟨ans, st, -, horacle, htaken⟩
  · exact ⟨d, _, congrArg _ hwaits, List.suffix_refl d, { h with sched := rfl }⟩
  · obtain ⟨bytes, rest, rfl, rfl, rfl⟩ := oracle_deliver_of_open (h.stream ▸ horacle)
    have hlacks := h.lacks
    rw [List.length_append] at hlacks
    refine ⟨rest, _, congrArg _ (htaken.trans (partialChunkIsAppended bytes _ h.inExact ?_)), List.suffix_append bytes rest,
      { h with lacks := ?_, stream := rfl, sched := rfl }⟩
    · show s.rxbuf.length + bytes.length < s.need.toNat
      omega
    · show (s.rxbuf ++ bytes).length + rest.length < s.need.toNat
      rw [List.length_append]
      omega

/-- Closed ends a read_exact that lacks bytes (R183). -/
theorem Starving.step_close {d : List Byte} {s : State} (h : Starving d [] s) :
    step s = .next (raise .disconnected { s with stream := { unread := d, shut := true }, sched := [] }) := by
  have henabled : readEnabled { s with sched := [] } = true :=
    readEnabled_of_exact h.inExact h.busy (by have := h.lacks; show s.rxbuf.length < s.need.toNat; omega)
  obtain ⟨k, hk⟩ := takeAnswer_of_exact .closed (s := { s with stream := { unread := d, shut := true }, sched := [] }) h.inExact
  rw [step_of_cons ((asciiMaxLegal_iff _).mpr h.bound) h.sched]
  refine congrArg Host.Outcome.next ?_
  rw [readStep, henabled, if_pos rfl, h.stream]
  exact hk

/-- R133: a read_exact whose bytes do not all come ends with Disconnected, having consumed a first part of what stood there. -/
theorem Starving.reaches_disconnected {d : List Byte} {ks : List Nat} {s : State} (h : Starving d ks s) :
    ∃ t, Reaches s (raise .disconnected t) ∧ t.stream.unread <:+ d := by
  induction ks generalizing d s with
  | nil => exact ⟨_, reaches_of_step h.step_close, List.suffix_refl d⟩
  | cons k ks ih =>
    obtain ⟨rest, t, hstep, hrest, hstarving⟩ := h.step_deliver
    obtain ⟨u, hreach, hunread⟩ := ih hstarving
    exact ⟨u, (reaches_of_step hstep).trans hreach, hunread.trans hrest⟩

/-! ## DECB over the bytes that stand on the stream -/

/-- A DECB is in flight under header h, with no result yet; d stands on the open stream, and answers enough to deliver it come,
and then Closed. -/
structure DecbRun (h : Header) (ev : Bool) (exp : Byte) (d : List Byte) (s : State) : Prop where
  bound : 6 ≤ s.cfgAsciiMax.toNat
  busy : s.status.busy = true
  header : s.cfgHeader = h
  latch : s.cmdLatch = commandWord (.decb ev exp)
  res : s.res = Results.zero
  stream : s.stream = { unread := d, shut := false }
  sched : ∃ ks : List Nat, d.length ≤ ks.length ∧ s.sched = deliveries ks ++ [.answer .close]

/-- The run from s ends with outcome o, having consumed a first part of d, and a frame's length where it ends with OK. -/
def EndsWith (d : List Byte) (o : Err × Byte × List Byte) (s : State) : Prop :=
  ∃ t, Reaches s (conclude o t) ∧ t.stream.unread <:+ d ∧
    (o.1 = .ok → d.length = t.stream.unread.length + o.2.2.length + 7)

theorem EndsWith.of_reaches {d : List Byte} {o : Err × Byte × List Byte} {s t : State} (hst : Reaches s t)
    (h : EndsWith d o t) : EndsWith d o s := by
  obtain ⟨u, htu, hrest⟩ := h
  exact ⟨u, hst.trans htu, hrest⟩

/-- A body of L bytes, L not 0, is read (R124). -/
theorem decbAfterLength_of_ne {lb : List Byte} (hne : rdLe16 lb 0 ≠ 0) (s : State) :
    decbAfterLength lb s = beginRead .bBody (rdLe16 lb 0) { s with bLenVal := rdLe16 lb 0 } := if_neg hne

section Reads

variable {h : Header} {ev : Bool} {exp : Byte} {s : State}

/-- A read of DECB whose bytes stand on the stream comes to its continuation. -/
theorem DecbRun.read {p : Phase} {k : List Byte → State → State} (hk : ReadsExactly p k) {n : Half} {bytes rest : List Byte}
    (hrun : DecbRun h ev exp (bytes ++ rest) s) (hlacks : 1 ≤ bytes.length) (hn : bytes.length = n.toNat) :
    ∃ t, Reaches (beginRead p n s) (k bytes t) ∧ DecbRun h ev exp rest t ∧ t.bodybuf = s.bodybuf := by
  obtain ⟨hbound, hbusy, hheader, hlatch, hres, hstream, ks, henough, hsched⟩ := hrun
  rw [List.length_append] at henough
  have hreading : Reading p bytes rest ks [.answer .close] (beginRead p n s) :=
    { bound := hbound, busy := hbusy, phase := rfl, lacks := hlacks, missing := (Nat.zero_add _).trans hn
      stream := hstream, sched := hsched, enough := by omega }
  obtain ⟨m, ks', -, -, hks, hreach⟩ := hreading.run hk
  exact ⟨_, ⟨m, hreach⟩, ⟨hbound, hbusy, hheader, hlatch, hres, rfl, ks', by omega, rfl⟩, rfl⟩

/-- A read of DECB whose bytes do not all stand on the stream ends it with Disconnected. -/
theorem DecbRun.endsWith_disconnected {p : Phase} (hp : exactPhase p = true) {n : Half} {d rest : List Byte}
    (hrun : DecbRun h ev exp rest s) (hshort : rest.length < n.toNat) (hrest : rest <:+ d) :
    EndsWith d (.disconnected, 0, []) (beginRead p n s) := by
  obtain ⟨hbound, hbusy, -, -, -, hstream, ks, -, hsched⟩ := hrun
  have hstarving : Starving rest ks (beginRead p n s) :=
    { bound := hbound, busy := hbusy, inExact := hp, lacks := (Nat.zero_add _).trans_lt hshort, stream := hstream
      sched := hsched }
  obtain ⟨t, hreach, hunread⟩ := hstarving.reaches_disconnected
  exact ⟨t, hreach, hunread.trans hrest, nofun⟩

/-- The header passes its check, and the length read begins. -/
theorem DecbRun.pastHeader {rest : List Byte} (hrun : DecbRun h ev exp (headerBytes h ++ rest) s) :
    ∃ t, Reaches (startDecb s) (beginRead .bLen 2 t) ∧ DecbRun h ev exp rest t := by
  obtain ⟨t, hreach, ht, -⟩ := hrun.read readsExactly_bHdr (n := 3) (Nat.le_add_left 1 2) rfl
  rw [decbAfterHeader_of_eq (by rw [ht.header])] at hreach
  exact ⟨_, hreach, { ht with }⟩

/-- The length field is gathered behind such a header. -/
theorem DecbRun.pastLength {lb rest : List Byte} (hlb : lb.length = 2)
    (hrun : DecbRun h ev exp (headerBytes h ++ (lb ++ rest)) s) :
    ∃ t, Reaches (startDecb s) (decbAfterLength lb t) ∧ DecbRun h ev exp rest t := by
  obtain ⟨t, hheader, ht⟩ := hrun.pastHeader
  obtain ⟨u, hlength, hu, -⟩ := ht.read readsExactly_bLen (n := 2) (hlb ▸ Nat.le_add_left 1 1) hlb
  exact ⟨u, hheader.trans hlength, hu⟩

/-- The body, which for L = 0 is complete at once, is gathered behind such a length, and the CRC read begins. -/
theorem DecbRun.pastBody {lb body rest : List Byte} (hlb : lb.length = 2) (hbody : body.length = (rdLe16 lb 0).toNat)
    (hrun : DecbRun h ev exp (headerBytes h ++ (lb ++ (body ++ rest))) s) :
    ∃ t, Reaches (startDecb s) (beginRead .bCrc 2 t) ∧ DecbRun h ev exp rest t ∧ t.bodybuf = body := by
  obtain ⟨t, hlength, ht⟩ := hrun.pastLength hlb
  by_cases hzero : rdLe16 lb 0 = 0
  · obtain rfl : body = [] := List.eq_nil_of_length_eq_zero (hbody.trans (congrArg BitVec.toNat hzero))
    simp only [decbAfterLength, hzero, if_true] at hlength
    exact ⟨_, hlength, { ht with }, rfl⟩
  · have hpos : 1 ≤ body.length := by
      rw [hbody]
      exact Nat.pos_of_ne_zero fun h0 => hzero (BitVec.eq_of_toNat_eq h0)
    rw [decbAfterLength_of_ne hzero] at hlength
    have hstart : DecbRun h ev exp (body ++ rest) { t with bLenVal := rdLe16 lb 0 } := { ht with }
    obtain ⟨u, hread, hu, -⟩ := hstart.read readsExactly_bBody hpos hbody
    exact ⟨_, hlength.trans hread, { hu with }, rfl⟩

/-- R124 over any chunking: DECB ends as the bytes on the stream are read. -/
theorem startDecb_endsWith {d : List Byte} {o : Err × Byte × List Byte} (hread : FrameReading h ev exp d o)
    (hrun : DecbRun h ev exp d s) : EndsWith d o (startDecb s) := by
  cases hread with
  | endsInHeader hd => exact hrun.endsWith_disconnected rfl hd (List.suffix_refl d)
  | badHeader rest hhdr hne =>
    obtain ⟨t, hreach, ht, -⟩ := hrun.read readsExactly_bHdr (n := 3) (hhdr ▸ Nat.le_add_left 1 2) hhdr
    rw [← ht.header] at hne
    simp only [decbAfterHeader, if_pos hne] at hreach
    exact ⟨_, hreach, by simp only [ht.stream, List.suffix_append], nofun⟩
  | endsInLength hd =>
    obtain ⟨t, hreach, ht⟩ := hrun.pastHeader
    exact .of_reaches hreach (ht.endsWith_disconnected rfl hd (List.suffix_append _ _))
  | endsInBody hlb hd =>
    obtain ⟨t, hreach, ht⟩ := hrun.pastLength hlb
    rw [decbAfterLength_of_ne fun hzero => by rw [hzero] at hd; exact Nat.not_lt_zero _ hd] at hreach
    exact .of_reaches hreach
      (DecbRun.endsWith_disconnected rfl { ht with } hd (by simp only [← List.append_assoc, List.suffix_append]))
  | endsInCrc hlb hbody hd =>
    obtain ⟨t, hreach, ht, -⟩ := hrun.pastBody hlb hbody
    exact .of_reaches hreach
      (ht.endsWith_disconnected rfl hd (by simp only [← List.append_assoc, List.suffix_append]))
  | @complete lb body cb after hlb hbody hcb =>
    obtain ⟨t, hreach, ht, rfl⟩ := hrun.pastBody hlb hbody
    obtain ⟨u, hcrc, hu, hgathered⟩ := ht.read readsExactly_bCrc (n := 2) (hcb ▸ Nat.le_add_left 1 1) hcb
    rw [decbAfterCrc_eq_conclude _ hu.latch hu.res, hgathered] at hcrc
    refine ⟨u, hreach.trans hcrc, ?_, fun hok => ?_⟩
    · simp only [hu.stream, ← List.append_assoc, List.suffix_append]
    · rw [checkOutcome_body hok, hu.stream]
      simp only [List.length_append, headerBytes_length, hlb, hcb]
      omega

end Reads

/-- Settles O34: DECB ends as its bytes are read, which is how DECBB ends, and the outcome is all the environment sees. -/
theorem decbOverAnyChunkingAgreesWithDecbb : Obligations.DecbOverAnyChunkingAgreesWithDecbb := by
  intro ev exp d ks rest s hv hexp hturn hport hstream henough
  have ⟨hbound, _, _⟩ := hturn
  have hrun : DecbRun s.cfgHeader ev exp d (decbAccepted ev exp rest (deliveries ks ++ [.answer .close]) s) :=
    { bound := hbound, busy := rfl, header := rfl, latch := rfl, res := rfl, stream := hstream
      sched := ⟨ks, henough, rfl⟩ }
  obtain ⟨t, ⟨n, hreach⟩, ⟨used, hused⟩, hlen⟩ := startDecb_endsWith (frameReading_binaryOutcome _ ev exp d) hrun
  refine ⟨n + 1, _, _, Nat.le_add_left 1 n, (run_succ n (step_decb hv hexp hturn hport)).trans hreach, ?_,
    exec_decbb ev exp (s := { s with din := d }) hv, conclude_visible _ _ _, used, ?_, fun hok => ?_⟩
  · rw [conclude_status, completed_busy]
  · rw [conclude_stream, hused]
  · rw [conclude_status, completed_err] at hok
    have hlen := hlen hok
    have htotal := congrArg List.length hused
    rw [List.length_append] at htotal
    rw [conclude_dout hok]
    omega

end Sys2Proof.Machine
end

section
/-! The ASCII frame codec: ENCA, DECAB over every DIN, and DECA's single read (R150, R154, R156, R160). -/

namespace Sys2Proof.Machine

open Sys2Proof.Expected

/-! ## ENCA (R150) -/

/-- An opcode whose row of the map is format A meets the statement of that format (R71, R74). -/
theorem formatA_of_decodeCommand {op : Nat} {f : Byte → Byte → Instr}
    (h : ∀ cw, (opField cw).toNat = op → decodeCommand cw = decodeA cw f) : FormatA op f := by
  intro cw hop
  have hreserved : cw.toNat / 2 ^ 24 = 0 ↔ cw.toNat < 2 ^ 24 := by omega
  rw [decode, h cw ((opField_toNat cw).trans hop), decodeA_eq_orIllegalOp, if_congr hreserved rfl rfl, ← ofNat_opcode hop]
  split <;> rfl

/-- R150 as a whole state: the frame of R83 with no payload, whose CRC-B is RES_CRC. -/
theorem encodeAscii_accept (addr acmd : Byte) (cw : Word) (s : State) :
    encodeAscii addr acmd (accept cw s) =
      completed s cw (asciiFrame addr acmd []) { Results.zero with crc := crcB [0x02, addr, acmd, 0x03], len := 6 } := by
  rw [asciiFrame_eq]
  rfl

/-- Settles O42: opcode 0x20 is a format A row, and the gated operation builds the frame. -/
theorem encaCompletes : Obligations.EncaCompletes := by
  refine ⟨formatA_of_decodeCommand fun cw hop => ?_, fun addr acmd =>
    ⟨onlyIn_of_gate (fun _ => rfl) (fun _ => rfl), fun s hv => ?_⟩⟩
  · simp only [decodeCommand, hop]
  · rw [exec_of_gate (op := encodeAscii addr acmd) (fun _ => rfl) (fun _ => rfl) hv, encodeAscii_accept]

/-! ## DECAB (R154, R156) -/

/-- In ASCII DECAB decodes DIN. -/
theorem exec_decab {s : State} (hv : s.cfgVariant = .ascii) :
    exec .decab s = .next (decodeAscii s.din (accept 0x00000022 s)) :=
  exec_of_gate (i := .decab) (op := fun t => decodeAscii t.dinSnap t) (fun _ => rfl) (fun _ => rfl) hv

/-- The CRC received with a buffer long enough to hold one is its last two bytes (R154). -/
theorem ne_receivedCrc_iff (c : Half) {buf : List Byte} (hlong : ¬ buf.length < 6) :
    c ≠ rdLe16 buf (buf.length - 2) ↔
      c.toNat ≠ pairLE (buf.getD (buf.length - 2) 0) (buf.getD (buf.length - 1) 0) := by
  have hlast : buf.length - 2 + 1 = buf.length - 1 := by omega
  rw [ne_eq, ← BitVec.toNat_inj, rdLe16_toNat, hlast]

/-- Settles O44: opcode 0x22 is a format Z row, and the gated operation makes the statement's checks in their order. -/
theorem decabCompletes : Obligations.DecabCompletes := by
  refine ⟨formatZ_of_decodeCommand fun cw hop => ?_, onlyIn_of_gate (fun _ => rfl) (fun _ => rfl), fun s hv => ?_⟩
  · simp only [decodeCommand, hop]
  · rw [exec_decab hv]
    refine congrArg Host.Outcome.next ?_
    simp only [decodeAscii]
    split
    · rfl
    next hlong =>
    refine if_congr (ne_receivedCrc_iff _ hlong) rfl (if_congr Iff.rfl rfl ?_)
    have hpayload : slice s.din 3 (s.din.length - 3) = (s.din.drop 3).take (s.din.length - 6) := rfl
    rw [hpayload]
    cases parseDecimal ((s.din.drop 3).take (s.din.length - 6)) <;> rfl

/-! ## DECA (R160) -/

/-- The decode of a buffer completes, and what the environment sees of its end depends only on the buffer and on the results
it started from (R41, R221). -/
theorem decodeAscii_completes_alike (buf : List Byte) {s t : State} (hres : s.res = t.res) :
    (decodeAscii buf s).visible = (decodeAscii buf t).visible ∧ (decodeAscii buf s).status.busy = false := by
  simp only [decodeAscii, hres]
  split
  · exact ⟨rfl, rfl⟩
  split
  · exact ⟨rfl, rfl⟩
  split
  · exact ⟨rfl, rfl⟩
  split <;> exact ⟨rfl, rfl⟩

/-- DECA's one answer goes to its decode (R160). -/
theorem takeAnswer_of_aRead {s : State} (hp : s.phase = .aRead) (ans : Answer) : takeAnswer ans s = decaAnswer ans s := by
  simp only [takeAnswer, hp]

/-- Settles O46: opcode 0x21 is a format Z row, the gated operation only sets PHASE, and the one answer is decoded as DECAB
decodes DIN, Closed being the empty buffer. -/
theorem decaReadsOnceAndDecodes : Obligations.DecaReadsOnceAndDecodes := by
  refine ⟨formatZ_of_decodeCommand fun cw hop => ?_, onlyIn_of_gate (fun _ => rfl) (fun _ => rfl), fun s hv => ?_,
    fun s hp => ?_, fun s hp hv hres _ => ⟨fun bytes u hu => ?_, takeAnswer_of_aRead hp .closed,
      takeAnswer_of_aRead hp .timedOut⟩⟩
  · simp only [decodeCommand, hop]
  · exact exec_of_gate (i := .deca) (op := startDeca) (fun _ => rfl) (fun _ => rfl) hv
  · simp only [requestSize, hp]
  · rw [exec_decab (s := { s with din := bytes }) hv] at hu
    cases hu
    rw [takeAnswer_of_aRead hp]
    exact decodeAscii_completes_alike bytes hres

end Sys2Proof.Machine
end

section
/-! The decimal payload: what the loop of R152 gathers, and the grammar it accepts. -/

namespace Sys2Proof.Machine

open Sys2Proof.Expected

/-! ## Digits -/

theorem isDigit_iff (b : Byte) : isDigit b = true ↔ 0x30 ≤ b.toNat ∧ b.toNat ≤ 0x39 := by
  simp [isDigit, BitVec.ule]

/-- The value of a digit sequence, read from its front or as R152's sum. -/
theorem decimalValue_eq_digitsValue (digits : List Byte) : decimalValue digits = digitsValue digits := by
  rw [digitsValue, Nat.ofDigits_eq_foldr, List.foldr_map, List.foldr_reverse, decimalValue]
  simp only [Nat.cast_id, Nat.add_comm]

/-! ## The loop of R152 -/

/-- The scan with more digits: before the point, or after it once it was seen. -/
def DigitScan.gather (acc : DigitScan) (digits : List Byte) : DigitScan :=
  if acc.point then { acc with fp := acc.fp ++ digits } else { acc with ip := acc.ip ++ digits }

@[simp] theorem DigitScan.gather_nil (acc : DigitScan) : acc.gather [] = acc := by
  simp [gather]

@[simp] theorem DigitScan.gather_gather (acc : DigitScan) (d e : List Byte) :
    (acc.gather d).gather e = acc.gather (d ++ e) := by
  cases h : acc.point <;> simp [gather, h]

@[simp] theorem DigitScan.gather_point (acc : DigitScan) (d : List Byte) : (acc.gather d).point = acc.point := by
  unfold gather
  split <;> rfl

theorem scanDigits_cons_of_digit {b : Byte} (hb : isDigit b = true) (rest : List Byte) (acc : DigitScan) :
    scanDigits (b :: rest) acc = scanDigits rest (acc.gather [b]) := by
  simp only [scanDigits, hb, if_true, DigitScan.gather]

/-- The point, which is no digit, is passed once. -/
theorem scanDigits_cons_point (rest : List Byte) (acc : DigitScan) :
    scanDigits (0x2E :: rest) acc = if acc.point then none else scanDigits rest { acc with point := true } := by
  have hb : isDigit 0x2E = false := rfl
  cases h : acc.point <;> simp only [scanDigits, hb, h] <;> rfl

theorem scanDigits_cons_of_other {b : Byte} (hb : isDigit b = false) (hpoint : b ≠ 0x2E) (rest : List Byte)
    (acc : DigitScan) : scanDigits (b :: rest) acc = none := by
  simp only [scanDigits, hb, hpoint, false_and, if_false, Bool.false_eq_true]

/-- Digits are gathered one by one. -/
theorem scanDigits_append {digits : List Byte} (hd : AllDigits digits) (rest : List Byte) (acc : DigitScan) :
    scanDigits (digits ++ rest) acc = scanDigits rest (acc.gather digits) := by
  induction digits generalizing acc with
  | nil => simp
  | cons b digits ih =>
    obtain ⟨hb, hd⟩ := List.forall_mem_cons.mp hd
    rw [List.cons_append, scanDigits_cons_of_digit ((isDigit_iff b).mpr hb), ih hd, DigitScan.gather_gather,
      List.singleton_append]

theorem scanDigits_of_digits {digits : List Byte} (hd : AllDigits digits) (acc : DigitScan) :
    scanDigits digits acc = some (acc.gather digits) := by
  have h := scanDigits_append hd [] acc
  rwa [List.append_nil] at h

/-- Every sequence is digits, to its end or to a first byte that is none. -/
theorem exists_digits_append (p : List Byte) :
    ∃ digits, AllDigits digits ∧ (p = digits ∨ ∃ b rest, p = digits ++ b :: rest ∧ isDigit b = false) := by
  induction p with
  | nil => exact ⟨[], List.forall_mem_nil _, .inl rfl⟩
  | cons b p ih =>
    cases hb : isDigit b with
    | false => exact ⟨[], List.forall_mem_nil _, .inr ⟨b, p, rfl, hb⟩⟩
    | true =>
      obtain ⟨digits, hd, hp⟩ := ih
      refine ⟨b :: digits, List.forall_mem_cons.mpr ⟨(isDigit_iff b).mp hb, hd⟩, ?_⟩
      obtain rfl | ⟨c, rest, rfl, hc⟩ := hp
      · exact .inl rfl
      · exact .inr ⟨c, rest, rfl, hc⟩

/-- The loop succeeds exactly on digits, to the end or to a first point that it goes on behind. -/
theorem scanDigits_eq_some_iff {p : List Byte} {acc r : DigitScan} :
    scanDigits p acc = some r ↔
      ∃ digits, AllDigits digits ∧
        (p = digits ∧ r = acc.gather digits ∨
          acc.point = false ∧
            ∃ rest, p = digits ++ 0x2E :: rest ∧ scanDigits rest { acc.gather digits with point := true } = some r) := by
  constructor
  · intro h
    obtain ⟨digits, hd, rfl | ⟨b, rest, rfl, hb⟩⟩ := exists_digits_append p
    · rw [scanDigits_of_digits hd] at h
      exact ⟨p, hd, .inl ⟨rfl, (Option.some.inj h).symm⟩⟩
    · rw [scanDigits_append hd] at h
      by_cases hpoint : b = 0x2E
      · rw [hpoint, scanDigits_cons_point, DigitScan.gather_point] at h
        obtain ⟨hacc, h⟩ := Option.ite_none_left_eq_some.mp h
        exact ⟨digits, hd, .inr ⟨eq_false_of_ne_true hacc, rest, by rw [hpoint], h⟩⟩
      · rw [scanDigits_cons_of_other hb hpoint] at h
        cases h
  · rintro ⟨digits, hd, ⟨rfl, rfl⟩ | ⟨hacc, rest, rfl, h⟩⟩
    · exact scanDigits_of_digits hd acc
    · rw [scanDigits_append hd, scanDigits_cons_point, DigitScan.gather_point, hacc]
      exact h

/-- Behind the point only digits are left. -/
theorem scanDigits_eq_some_iff_of_point {p : List Byte} {acc r : DigitScan} (hacc : acc.point = true) :
    scanDigits p acc = some r ↔ AllDigits p ∧ r = acc.gather p := by
  rw [scanDigits_eq_some_iff]
  simp [hacc]

/-- From its start the loop splits the payload at its point, if it has one. -/
theorem scanDigits_start_eq_some_iff {p : List Byte} {r : DigitScan} :
    scanDigits p { ip := [], fp := [], point := false } = some r ↔
      AllDigits r.ip ∧ AllDigits r.fp ∧
        (r.point = false ∧ r.fp = [] ∧ p = r.ip ∨ r.point = true ∧ p = r.ip ++ 0x2E :: r.fp) := by
  rw [scanDigits_eq_some_iff]
  constructor
  · rintro ⟨ip, hip, ⟨rfl, rfl⟩ | ⟨-, fp, rfl, h⟩⟩
    · exact ⟨hip, List.forall_mem_nil _, .inl ⟨rfl, rfl, rfl⟩⟩
    · obtain ⟨hfp, rfl⟩ := (scanDigits_eq_some_iff_of_point rfl).mp h
      exact ⟨hip, hfp, .inr ⟨rfl, rfl⟩⟩
  · obtain ⟨ip, fp, point⟩ := r
    rintro ⟨hip, hfp, ⟨rfl, rfl, rfl⟩ | ⟨rfl, rfl⟩⟩
    · exact ⟨p, hip, .inl ⟨rfl, rfl⟩⟩
    · exact ⟨ip, hip, .inr ⟨rfl, fp, rfl, (scanDigits_eq_some_iff_of_point rfl).mpr ⟨hfp, rfl⟩⟩⟩

/-! ## The grammar -/

/-- R152's `digits`: ip, or ip, a point and fp, with at least one digit. -/
structure IsUnsigned (p ip fp : List Byte) : Prop where
  beforePoint : AllDigits ip
  afterPoint : AllDigits fp
  nonempty : 1 ≤ ip.length + fp.length
  shape : (fp = [] ∧ p = ip) ∨ p = ip ++ 0x2E :: fp

/-- The byte of the sign. -/
def signBytes (neg : Bool) : List Byte := if neg then [0x2D] else []

theorem parseUnsigned_eq_some_iff {neg : Bool} {p : List Byte} {d : Decimal} :
    parseUnsigned neg p = some d ↔
      ∃ ip fp, IsUnsigned p ip fp ∧ d = { neg := neg, mant := digitsValue (ip ++ fp), scale := fp.length } := by
  unfold parseUnsigned
  constructor
  · split
    · nofun
    next r hscan =>
    obtain ⟨hip, hfp, hshape⟩ := scanDigits_start_eq_some_iff.mp hscan
    split
    · nofun
    next hdigits =>
    intro h
    refine ⟨r.ip, r.fp, ⟨hip, hfp, by omega, hshape.imp And.right And.right⟩, ?_⟩
    rw [← decimalValue_eq_digitsValue]
    exact (Option.some.inj h).symm
  · rintro ⟨ip, fp, ⟨hip, hfp, hdigits, hshape⟩, rfl⟩
    obtain ⟨point, hscan⟩ : ∃ point, scanDigits p { ip := [], fp := [], point := false } = some ⟨ip, fp, point⟩ := by
      obtain ⟨hnil, hp⟩ | hp := hshape
      · exact ⟨false, scanDigits_start_eq_some_iff.mpr ⟨hip, hfp, .inl ⟨rfl, hnil, hp⟩⟩⟩
      · exact ⟨true, scanDigits_start_eq_some_iff.mpr ⟨hip, hfp, .inr ⟨rfl, hp⟩⟩⟩
    have hsome : ¬ ip.length + fp.length = 0 := by omega
    simp only [hscan, hsome, if_false, decimalValue_eq_digitsValue]

/-- A minus is neither a digit nor the point, so no unsigned number begins with it. -/
theorem parseUnsigned_minus (neg : Bool) (rest : List Byte) : parseUnsigned neg (0x2D :: rest) = none := by
  have hscan := scanDigits_cons_of_other (b := 0x2D) rfl (by decide) rest { ip := [], fp := [], point := false }
  simp only [parseUnsigned, hscan]

theorem parseUnsigned_neg {neg : Bool} {p : List Byte} {d : Decimal} (h : parseUnsigned neg p = some d) : d.neg = neg := by
  obtain ⟨_, _, _, rfl⟩ := parseUnsigned_eq_some_iff.mp h
  rfl

/-- parse_decimal is the optional minus, then the unsigned parse. -/
theorem parseDecimal_eq_some_iff {p : List Byte} {d : Decimal} :
    parseDecimal p = some d ↔ ∃ u, p = signBytes d.neg ++ u ∧ parseUnsigned d.neg u = some d := by
  constructor
  · intro h
    obtain ⟨neg, u, rfl, hu⟩ : ∃ neg u, p = signBytes neg ++ u ∧ parseUnsigned neg u = some d := by
      unfold parseDecimal at h
      split at h
      · exact ⟨false, [], rfl, h⟩
      next b rest =>
      split at h
      · next hminus => exact ⟨true, rest, by rw [hminus]; rfl, h⟩
      · exact ⟨false, b :: rest, rfl, h⟩
    cases parseUnsigned_neg hu
    exact ⟨u, rfl, hu⟩
  · rintro ⟨u, rfl, hu⟩
    cases hneg : d.neg with
    | true =>
      rw [hneg] at hu
      exact hu
    | false =>
      rw [hneg] at hu
      cases u with
      | nil => exact hu
      | cons b rest =>
        by_cases hminus : b = 0x2D
        · rw [hminus, parseUnsigned_minus] at hu
          cases hu
        · exact (if_neg hminus).trans hu

/-- Settles O43: the sign, then the digits the loop splits at the point; the value's sign is a power of -1. -/
theorem decimalGrammar : Obligations.DecimalGrammar := by
  refine ⟨fun p neg mant scale => ?_, fun r => ?_⟩
  · rw [parseDecimal_eq_some_iff]
    simp only [parseUnsigned_eq_some_iff, Decimal.mk.injEq, true_and]
    constructor
    · rintro ⟨_, rfl, ip, fp, ⟨hip, hfp, hdigits, hshape⟩, hvalue⟩
      refine ⟨ip, fp, hip, hfp, hdigits, ?_, hvalue⟩
      obtain ⟨hnil, rfl⟩ | rfl := hshape
      · exact .inl ⟨hnil, rfl⟩
      · exact .inr (by simp [signBytes])
    · rintro ⟨ip, fp, hip, hfp, hdigits, ⟨hnil, rfl⟩ | rfl, hvalue⟩
      · exact ⟨ip, rfl, ip, fp, ⟨hip, hfp, hdigits, .inl ⟨hnil, rfl⟩⟩, hvalue⟩
      · exact ⟨ip ++ 0x2E :: fp, by simp [signBytes], ip, fp, ⟨hip, hfp, hdigits, .inr rfl⟩, hvalue⟩
  · have hsign : (if r.vneg then -1 else 1 : Rat) = (-1) ^ r.vneg.toNat := by
      cases r.vneg
      · exact (pow_zero _).symm
      · exact (pow_one _).symm
    rw [Results.decimal, hsign]

end Sys2Proof.Machine
end

section
/-! The transport reader: RDX, its end over any chunking, the answers that end a read_exact, and RDB (R180 to R188). -/

namespace Sys2Proof.Machine

open Sys2Proof.Expected

/-! ## One answered read -/

/-- An enabled read that the oracle answers hands the answer to the operation in flight (R181). -/
theorem readStep_of_oracle {d : Draw} {ans : Answer} {st : Stream} {s : State} (henabled : readEnabled s = true)
    (horacle : oracle (requestSize s) d s.stream = some (ans, st)) :
    readStep d s = takeAnswer ans { s with stream := st } := by
  simp only [readStep, henabled, horacle, if_true]

/-- The step that answers the pending read. -/
theorem step_answer {d : Draw} {es : List EnvEvent} {ans : Answer} {st : Stream} {s : State}
    (hc : asciiMaxLegal s.cfgAsciiMax = true) (hs : s.sched = .answer d :: es) (henabled : readEnabled s = true)
    (horacle : oracle (requestSize s) d s.stream = some (ans, st)) :
    step s = .next (takeAnswer ans { s with sched := es, stream := st }) :=
  (step_of_cons hc hs).trans
    (congrArg Host.Outcome.next (readStep_of_oracle (s := { s with sched := es }) henabled horacle))

/-- Closed ends every read_exact with Disconnected and no partial result (R183). -/
theorem takeAnswer_closed_of_exact {s : State} (hx : exactPhase s.phase = true) :
    takeAnswer .closed s = aborted s .disconnected := by
  obtain ⟨k, hk⟩ := takeAnswer_of_exact .closed hx
  rw [hk]
  rfl

/-- TimedOut ends every read_exact with Timeout and no partial result (R183). -/
theorem takeAnswer_timedOut_of_exact {s : State} (hx : exactPhase s.phase = true) :
    takeAnswer .timedOut s = aborted s .timeout := by
  obtain ⟨k, hk⟩ := takeAnswer_of_exact .timedOut hx
  rw [hk]
  rfl

/-- Settles O39: the lacking read_exact is enabled, and the draws close and timeOut are answered Closed and TimedOut. -/
theorem closedAndTimedOutAreDistinct : Obligations.ClosedAndTimedOutAreDistinct := by
  intro s es hmax hbusy hx hlacks
  have hc := (asciiMaxLegal_iff _).mpr hmax
  have henabled := readEnabled_of_exact hx hbusy hlacks
  refine ⟨fun hs => ?_, fun hs => ?_⟩
  · rw [step_answer hc hs henabled rfl, takeAnswer_closed_of_exact (by exact hx)]
  · rw [step_answer hc hs henabled rfl, takeAnswer_timedOut_of_exact (by exact hx)]

/-! ## RDX (R184) -/

/-- An opcode whose row of the map is format N meets the statement of that format (R71, R74). -/
theorem formatN_of_decodeCommand {op : Nat} {f : Half → Instr}
    (h : ∀ cw, (opField cw).toNat = op → decodeCommand cw = decodeN cw f) : FormatN op f := by
  intro cw hop
  have hreserved : cw.toNat / 2 ^ 24 = 0 ↔ cw.toNat < 2 ^ 24 := by omega
  rw [decode, h cw ((opField_toNat cw).trans hop), decodeN_eq_orIllegalOp, if_congr hreserved rfl rfl, ← ofNat_opcode hop]
  split <;> rfl

theorem readsExactly_xRead : ReadsExactly .xRead rdxDone := ⟨rfl, fun _ _ hp => by simp only [takeAnswer, hp]⟩

/-- RDX N with N ≥ 1 begins its read in the accept step (R184). -/
theorem startRdx_of_ne {n : Half} (hn : n ≠ 0) (s : State) : startRdx n s = beginRead .xRead n s := if_neg hn

/-- Bytes delivered as they are, with their number as RES_LEN, end an operation that had no result yet (R184, R188). -/
theorem rdxDone_eq_ended (bytes : List Byte) {s : State} (hres : s.res = Results.zero) :
    rdxDone bytes s = ended s bytes { Results.zero with len := BitVec.ofNat 32 bytes.length } := by
  simp only [rdxDone, hres]
  rfl

/-- Settles O36: opcode 0x30 is a format N row, RDX begins a read_exact unless N = 0, and rdxDone goes on from its bytes. -/
theorem rdxCompletes : Obligations.RdxCompletes := by
  refine ⟨formatN_of_decodeCommand fun cw hop => ?_, fun n s => ?_, fun s hp => ?_⟩
  · simp only [decodeCommand, hop]
  · rw [exec_eq]
    split
    · next hzero =>
      rw [hzero]
      rfl
    · next hne => exact congrArg Host.Outcome.next (startRdx_of_ne hne _)
  · have hx : exactPhase s.phase = true := by rw [hp]
    refine ⟨requestSize_of_exact hx, fun bytes hbytes hres => ?_, takeAnswer_closed_of_exact hx,
      takeAnswer_timedOut_of_exact hx⟩
    rw [takeAnswer_chunk_of_complete readsExactly_xRead hp hbytes, rdxDone_eq_ended _ (by exact hres), List.length_append,
      hbytes, BitVec.ofNat_toNat]
    rfl

/-- RDX's accept on a block that goes on holding `rest`, es being the moves to come (R40). -/
def rdxAccepted (n : Half) (rest : List PortAction) (es : List EnvEvent) (s : State) : State :=
  accept (commandWord (.rdx n)) { s with port := rest, sched := es }

/-- On its turn an idle block accepts the RDX first on its port and, for N ≥ 1, begins its read. -/
theorem step_rdx {n : Half} {rest : List PortAction} {es : List EnvEvent} {s : State} (hn : n ≠ 0) (hturn : TurnAt s es)
    (hport : s.port = .word (.command (commandWord (.rdx n))) :: rest) :
    step s = .next (beginRead .xRead n (rdxAccepted n rest es s)) := by
  have hdecode : decode (.command (commandWord (.rdx n))) = .ok (.rdx n) := by
    rw [commandWord_rdx]
    exact decodeOfEncodeIsTheInstruction (.rdx n) rfl
  rw [step_of_turnAt hturn hport]
  exact (runWord_of_ok hdecode).trans ((exec_eq _ _).trans (congrArg Host.Outcome.next (startRdx_of_ne hn _)))

/-- A read_exact that begins now reads what stands next on the stream. -/
theorem Delivering.reading {p : Phase} {n : Half} {ks : List Nat} {bytes after : List Byte} {es : List EnvEvent} {s : State}
    (h : Delivering bytes after ks es s) (hlacks : 1 ≤ bytes.length) (hn : bytes.length = n.toNat) :
    Reading p bytes after ks es (beginRead p n s) :=
  { bound := h.bound, busy := h.busy, phase := rfl, lacks := hlacks, missing := (Nat.zero_add _).trans hn
    stream := h.stream, sched := h.sched, enough := h.enough }

/-- Settles O37: the accept begins a read_exact of N bytes, and read_exact over any chunking is `Reading.run`. -/
theorem rdxDeliversExactlyTheNextBytes : Obligations.RdxDeliversExactlyTheNextBytes := by
  intro n ks rest s hpos hturn hport hopen hbytes hks
  have hn : n ≠ 0 := by
    rintro rfl
    exact absurd hpos (by decide)
  have haccept := step_rdx hn hturn hport
  have hlen : (s.stream.unread.take n.toNat).length = n.toNat := List.length_take_of_le hbytes
  obtain ⟨hbound, -, -⟩ := hturn
  have hdelivering : Delivering (s.stream.unread.take n.toNat) (s.stream.unread.drop n.toNat) ks []
      (rdxAccepted n rest (deliveries ks) s) :=
    { bound := hbound, busy := rfl
      stream := by
        rw [List.take_append_drop, ← hopen]
        rfl
      sched := (List.append_nil _).symm
      enough := hlen.trans_le hks }
  obtain ⟨k, ks', hk, hle, -, hrun⟩ := (hdelivering.reading (hpos.trans_eq hlen.symm) hlen).run readsExactly_xRead
  refine ⟨k, _, hk, hle.trans_eq hlen, (run_add k (run_one haccept)).trans hrun, rfl, rfl, ?_, rfl⟩
  rw [rdxDone_eq_ended _ rfl, beginRead_rxbuf, List.nil_append, hlen]
  rfl

/-! ## RDB (R188) -/

/-- RDB's one answer is its result (R188). -/
theorem takeAnswer_of_rRead {s : State} (hp : s.phase = .rRead) (ans : Answer) : takeAnswer ans s = rdbAnswer ans s := by
  simp only [takeAnswer, hp]

/-- Settles O40: opcode 0x31 is a format Z row, accept only sets PHASE, and Closed is the empty chunk. -/
theorem rdbReadsOnce : Obligations.RdbReadsOnce := by
  refine ⟨formatZ_of_decodeCommand fun cw hop => ?_, fun s => exec_eq .rdb s, fun s hp =>
    ⟨?_, fun hres => ⟨fun bytes => ?_, ?_⟩, takeAnswer_of_rRead hp .timedOut⟩⟩
  · simp only [decodeCommand, hop]
  · simp only [requestSize, hp]
  · rw [takeAnswer_of_rRead hp]
    exact rdxDone_eq_ended bytes hres
  · rw [takeAnswer_of_rRead hp]
    exact rdxDone_eq_ended [] hres

end Sys2Proof.Machine
end

section
/-! Liveness (R281): an answered read ends the operation or consumes a byte, and the finitely many moves of a weakly fair
environment end every operation. -/

namespace Sys2Proof.Machine

/-! ## An answered read makes progress -/

/-- A phase with a read pending names a read_exact or one of the two bounded reads (R181). -/
theorem exactPhase_or_bounded {p : Phase} (hp : p ≠ .idle) : exactPhase p = true ∨ p = .aRead ∨ p = .rRead := by
  cases p with
  | idle => exact absurd rfl hp
  | bHdr | bLen | bBody | bCrc | xRead => exact .inl rfl
  | aRead => exact .inr (.inl rfl)
  | rRead => exact .inr (.inr rfl)

/-- A busy block has its read pending (R181). -/
theorem Inv.readEnabled_of_busy {s : State} (h : Inv s) (hbusy : s.status.busy = true) : readEnabled s = true := by
  rcases exactPhase_or_bounded (h.inFlight hbusy).phase with hx | hp | hp
  · obtain ⟨hlacks, -⟩ := h.pending
    exact readEnabled_of_exact hx hbusy (hlacks hx)
  · simp only [readEnabled, hbusy, hp, Bool.true_and]
  · simp only [readEnabled, hbusy, hp, Bool.true_and]

/-- A read is enabled only while an operation is in flight (R181). -/
theorem busy_of_readEnabled {s : State} (h : readEnabled s = true) : s.status.busy = true := by
  unfold readEnabled at h
  obtain ⟨hbusy, -⟩ := Bool.and_eq_true_iff.mp h
  exact hbusy

/-- Closed ends whatever operation is in flight (R160, R183, R188). -/
theorem takeAnswer_closed_busy {s : State} (hphase : s.phase ≠ .idle) : (takeAnswer .closed s).status.busy = false := by
  rcases exactPhase_or_bounded hphase with hx | hp | hp
  · rw [takeAnswer_closed_of_exact hx]
    rfl
  · rw [takeAnswer_of_aRead hp]
    obtain ⟨-, hends⟩ := decodeAscii_completes_alike [] (s := s) rfl
    exact hends
  · rw [takeAnswer_of_rRead hp]
    rfl

/-- TimedOut ends whatever operation is in flight (R160, R183, R188). -/
theorem takeAnswer_timedOut_busy {s : State} (hphase : s.phase ≠ .idle) :
    (takeAnswer .timedOut s).status.busy = false := by
  rcases exactPhase_or_bounded hphase with hx | hp | hp
  · rw [takeAnswer_timedOut_of_exact hx]
    rfl
  · rw [takeAnswer_of_aRead hp]
    rfl
  · rw [takeAnswer_of_rRead hp]
    rfl

/-- R281: the step that answers the pending read ends the operation or takes at least one byte from the stream. -/
theorem answeredRead_progress {s t : State} (h : Inv s) (henabled : readEnabled s = true) (hanswered : ReadAnswered s)
    (hstep : step s = .next t) : t.status.busy = false ∨ t.stream.unread.length < s.stream.unread.length := by
  obtain ⟨d, es, hs, hsome⟩ := hanswered
  obtain ⟨⟨ans, st⟩, horacle⟩ := Option.isSome_iff_exists.mp hsome
  have hphase := (h.inFlight (busy_of_readEnabled henabled)).phase
  rw [step_answer h.asciiMaxLegal hs henabled horacle] at hstep
  cases hstep
  rcases oracle_cases (requestSize_pos h.asciiMaxLegal henabled) horacle with
    ⟨rfl, -⟩ | ⟨rfl, -⟩ | ⟨bytes, -, hpos, -, -, hunread, -⟩
  · exact .inl (takeAnswer_timedOut_busy hphase)
  · exact .inl (takeAnswer_closed_busy hphase)
  · refine .inr ?_
    rw [(takeAnswer_frame _ _).stream, hunread, List.length_append]
    show st.unread.length < bytes.length + st.unread.length
    omega

/-! ## What one step does to an operation in flight -/

/-- A chunk holds at most what was asked for (R55). -/
theorem oracle_chunk_length_le {r : Nat} {d : Draw} {st st' : Stream} {bytes : List Byte} (hr : 1 ≤ r)
    (h : oracle r d st = some (.chunk bytes, st')) : bytes.length ≤ r := by
  rcases oracle_cases hr h with ⟨hchunk, -⟩ | ⟨hchunk, -⟩ | ⟨bytes', hchunk, -, hle, -⟩
  · cases hchunk
  · cases hchunk
  · cases hchunk
    exact hle

/-- A read step leaves the operation in flight or completes it (R181). -/
theorem readStep_busy_or_done (d : Draw) {s : State} (h : Inv s) (hbusy : s.status.busy = true) :
    (readStep d s).status.busy = true ∨ (readStep d s).status.done = true := by
  rcases readStep_cases d s with hsame | ⟨ans, st, henabled, horacle, hans⟩
  · rw [hsame]
    exact .inl hbusy
  · rw [hans]
    have hflight : InFlight { s with stream := st } := { h.inFlight hbusy with }
    have hgoesOn : GoesOn (takeAnswer ans { s with stream := st }) := takeAnswer_goesOn hflight fun bytes hb =>
      oracle_chunk_length_le (requestSize_pos h.asciiMaxLegal henabled) (hb ▸ horacle)
    rcases hgoesOn with hstill | hend
    · exact .inl (congrArg Status.busy hstill.status)
    · obtain ⟨-, -, hdone⟩ := hend.completed
      exact .inr hdone

theorem readStep_sched (d : Draw) (s : State) : (readStep d s).sched = s.sched := by
  rcases readStep_cases d s with hsame | ⟨ans, st, -, -, hans⟩
  · rw [hsame]
  · rw [hans, (takeAnswer_frame _ _).sched]

/-- A move of the environment leaves the operation in flight, completes it, or is a reset; the moves to come stay. -/
theorem envMove_of_busy {e : EnvEvent} {s t : State} (h : Inv s) (hbusy : s.status.busy = true)
    (hmove : envMove e s = .next t) :
    t.sched = s.sched ∧ (t.status.busy = true ∨ t.status.done = true ∨ e = .reset) := by
  rcases envMove_cases hmove with ⟨-, hblock⟩ | ⟨bytes, -, -, rfl⟩ | ⟨a, -, rfl⟩ | ⟨d, -, rfl⟩ | ⟨bytes, -, rfl⟩ |
    ⟨bytes, -, rfl⟩ | ⟨hreset, -, rfl⟩
  · rw [blockStep_of_busy hbusy] at hblock
    cases hblock
    exact ⟨rfl, .inl hbusy⟩
  · exact ⟨rfl, .inl hbusy⟩
  · exact ⟨rfl, .inl hbusy⟩
  · exact ⟨readStep_sched d s, (readStep_busy_or_done d h hbusy).imp_right .inl⟩
  · exact ⟨rfl, .inl hbusy⟩
  · exact ⟨rfl, .inl hbusy⟩
  · exact ⟨rfl, .inr (.inr hreset)⟩

/-! ## Weak fairness along a run -/

/-- Weak fairness speaks of the rest of every run, so it is kept by each step. -/
theorem WeaklyFair.of_step {s t : State} (h : WeaklyFair s) (hstep : step s = .next t) : WeaklyFair t :=
  fun k u hrun => h (k + 1) u ((run_succ k hstep).trans hrun)

/-- With no move of the environment to come a busy block waits for ever, so weak fairness rules that out. -/
theorem WeaklyFair.sched_ne_nil {s : State} (h : WeaklyFair s) (hinv : Inv s) (hbusy : s.status.busy = true) :
    s.sched ≠ [] := by
  intro hs
  have henabled := hinv.readEnabled_of_busy hbusy
  have hwaits : step s = .next s := (step_of_nil hinv.asciiMaxLegal hs).trans (blockStep_of_busy hbusy)
  obtain ⟨j, u, hrun, hend⟩ := h 0 s rfl henabled
  rw [run_of_step_self hwaits j] at hrun
  cases hrun
  rcases hend with ⟨d, es, hanswer, -⟩ | hdisabled
  · rw [hs] at hanswer
    cases hanswer
  · rw [henabled] at hdisabled
    cases hdisabled

/-- The machine stops at no step that a pending read of a weakly fair run waits behind. -/
theorem WeaklyFair.step_next {s : State} (h : WeaklyFair s) (hinv : Inv s) (hbusy : s.status.busy = true) :
    ∃ t, step s = .next t := by
  have henabled := hinv.readEnabled_of_busy hbusy
  obtain ⟨j, u, hrun, hend⟩ := h 0 s rfl henabled
  cases j with
  | zero =>
    cases hrun
    rcases hend with ⟨d, es, hanswer, -⟩ | hdisabled
    · exact ⟨_, step_of_cons hinv.asciiMaxLegal hanswer⟩
    · rw [henabled] at hdisabled
      cases hdisabled
  | succ j =>
    cases hstep : step s with
    | next t => exact ⟨t, rfl⟩
    | fault r | refused r =>
      simp only [Host.Core.run, Sys2Proof.core, hstep] at hrun
      cases hrun

/-- The run from s reaches BUSY = 0, by a completion or by a reset that abandons the operation (R260, R281). -/
def OperationEnds (s : State) : Prop :=
  ∃ n t, Host.Core.run Sys2Proof.core n s = .next t ∧ t.status.busy = false ∧
    (t.status.done = true ∨
      ∃ m u es, m + 1 = n ∧ Host.Core.run Sys2Proof.core m s = .next u ∧ u.status.busy = true ∧ u.sched = .reset :: es)

theorem OperationEnds.of_step {s t : State} (hstep : step s = .next t) : OperationEnds t → OperationEnds s := by
  rintro ⟨n, v, hrun, hidle, hdone | ⟨m, u, es, hm, hprev, hu⟩⟩
  · exact ⟨n + 1, v, (run_succ n hstep).trans hrun, hidle, .inl hdone⟩
  · exact ⟨n + 1, v, (run_succ n hstep).trans hrun, hidle,
      .inr ⟨m + 1, u, es, congrArg (· + 1) hm, (run_succ m hstep).trans hprev, hu⟩⟩

/-- Each move uses up one of the finitely many to come, and a weakly fair environment does not run out of them before the
operation has ended. -/
theorem WeaklyFair.operationEnds {es : List EnvEvent} {s : State} (h : WeaklyFair s) (hinv : Inv s)
    (hbusy : s.status.busy = true) (hs : s.sched = es) : OperationEnds s := by
  induction es generalizing s with
  | nil => exact absurd hs (h.sched_ne_nil hinv hbusy)
  | cons e es ih =>
    obtain ⟨t, hstep⟩ := h.step_next hinv hbusy
    have hmove : envMove e { s with sched := es } = .next t := (step_of_cons hinv.asciiMaxLegal hs).symm.trans hstep
    obtain ⟨hsched, hstatus⟩ := envMove_of_busy (s := { s with sched := es }) { hinv with } hbusy hmove
    rcases Bool.eq_false_or_eq_true t.status.busy with hstill | hidle
    · exact .of_step hstep (ih (h.of_step hstep) (stepKeepsTheInvariant s t hinv hstep) hstill hsched)
    · refine ⟨1, t, run_one hstep, hidle, ?_⟩
      rcases hstatus with hstill | hdone | rfl
      · rw [hidle] at hstill
        cases hstill
      · exact .inl hdone
      · exact .inr ⟨0, s, es, rfl, rfl, hbusy, hs⟩

/-- Settles O60: each answer makes progress, and the induction over the moves to come is `WeaklyFair.operationEnds`. -/
theorem fairOracleEndsEveryOperation : Obligations.FairOracleEndsEveryOperation :=
  ⟨fun _ _ => answeredRead_progress, fun _ hinv hbusy hfair => hfair.operationEnds hinv hbusy rfl⟩

end Sys2Proof.Machine
end

section
/-! DECW on every DIN, and the weight its results stand for (R200, R202, R203). -/

namespace Sys2Proof.Machine

open Sys2Proof.Expected

/-! ## DECW (R200) -/

/-- In BINARY DECW decodes DIN. -/
theorem exec_decw {s : State} (hv : s.cfgVariant = .binary) :
    exec .decw s = .next (decodeWeight (accept 0x00000013 s)) :=
  exec_of_gate (i := .decw) (op := decodeWeight) (fun _ => rfl) (fun _ => rfl) hv

/-- An empty DIN_SNAP holds no command byte (R200). -/
theorem decodeWeight_of_nil {s : State} (hsnap : s.dinSnap = []) : decodeWeight s = raise .truncated s := by
  simp only [decodeWeight, hsnap]

/-- The command byte is compared before the length (R200). -/
theorem decodeWeight_of_ne {b0 : Byte} {rest : List Byte} {s : State} (hsnap : s.dinSnap = b0 :: rest)
    (hne : b0 ≠ 0x10) : decodeWeight s = raiseWithCode .unexpectedResponse b0 s := by
  simp only [decodeWeight, hsnap, weightRespCode, ne_eq, hne, not_false_eq_true, if_true]

/-- A body too short for its fields, whose command byte is a weight response's (R200). -/
theorem decodeWeight_of_short {rest : List Byte} {s : State} (hsnap : s.dinSnap = 0x10 :: rest)
    (hshort : rest.length < 6) : decodeWeight s = raise .truncated s := by
  have hlen : (0x10 :: rest).length < 7 := Nat.succ_lt_succ hshort
  simp only [decodeWeight, hsnap, weightRespCode, ne_eq, not_true_eq_false, if_false, hlen, if_true]

/-- DECW in BINARY on a weight body, whatever follows its seven bytes. -/
theorem exec_decw_weightBody (r0 r1 r2 r3 div stab : Byte) (more : List Byte) {s : State} (hv : s.cfgVariant = .binary)
    (hdin : s.din = weightBody r0 r1 r2 r3 div stab ++ more) :
    exec .decw s = .next (completed s 0x00000013 [] (weightResults r0 r1 r2 r3 div stab (7 + more.length))) := by
  rw [exec_decw hv, decodeWeight_weightBody r0 r1 r2 r3 div stab more (by exact hdin) (by rfl)]
  rfl

/-- Settles O47: opcode 0x13 is a format Z row, and the gated operation makes the statement's checks in their order. -/
theorem decwCompletes : Obligations.DecwCompletes := by
  refine ⟨formatZ_of_decodeCommand fun cw hop => ?_, onlyIn_of_gate (fun _ => rfl) (fun _ => rfl),
    fun s hv hdin => ?_, fun b0 rest s hv hdin hne => ?_, fun rest s hv hdin hshort => ?_,
    fun r0 r1 r2 r3 div stab more s hv hdin => exec_decw_weightBody r0 r1 r2 r3 div stab more hv hdin⟩
  · simp only [decodeCommand, hop]
  · rw [exec_decw hv, decodeWeight_of_nil (by exact hdin)]
    rfl
  · rw [exec_decw hv, decodeWeight_of_ne (by exact hdin) hne]
    rfl
  · rw [exec_decw hv, decodeWeight_of_short (by exact hdin) hshort]
    rfl

/-! ## The weight (R202, R203) -/

/-- R202's table of exponents as a number: 4 - code up to code 4, and 0 above (R203). -/
theorem weightResults_wexp_toNat (r0 r1 r2 r3 div stab : Byte) (len : Nat) :
    (weightResults r0 r1 r2 r3 div stab len).wexp.toNat = if div.toNat ≤ 4 then 4 - div.toNat else 0 := by
  simp only [weightResults]
  split
  · rw [BitVec.toNat_ofNat]
    omega
  · rfl

/-- The divisor of a code is 10 to the minus its exponent (R202, R203). -/
theorem divisor_eq_one_div (div : Byte) : divisor div = 1 / 10 ^ (if div.toNat ≤ 4 then 4 - div.toNat else 0) := by
  unfold divisor
  generalize div.toNat = code
  match code with
  | 0 | 1 | 2 | 3 => norm_num
  | n + 4 =>
    have hexp : (if n + 4 ≤ 4 then 4 - (n + 4) else 0) = 0 := by
      split <;> omega
    rw [hexp, pow_zero, div_one]
    rfl

/-- R202: the reading over the power of ten is the reading times the divisor, exactly. -/
theorem weightResults_weightKg (r0 r1 r2 r3 div stab : Byte) (len : Nat) :
    (weightResults r0 r1 r2 r3 div stab len).weightKg =
      (weightResults r0 r1 r2 r3 div stab len).raw.toInt * divisor div := by
  rw [Results.weightKg, weightResults_wexp_toNat, divisor_eq_one_div, mul_one_div]

/-- Settles O48: DECW leaves `weightResults`, whose exponent and weight the two lemmas above give. -/
theorem weightIsRawTimesDivisor : Obligations.WeightIsRawTimesDivisor := by
  intro r0 r1 r2 r3 div stab s hv hdin
  exact ⟨_, exec_decw_weightBody r0 r1 r2 r3 div stab [] hv hdin, rfl, rfl, weightResults_wexp_toNat ..,
    rfl, weightResults_weightKg ..⟩

end Sys2Proof.Machine
end

section
/-! The exceptions (R220 to R222): the error codes, raise as the whole state, and RES_CODE after an accept step. The idle block
(R231). -/

namespace Sys2Proof.Machine

open Sys2Proof.Expected

/-! ## The error codes (R220) -/

/-- The row of R220 with the number given, and OK for a number without a row. -/
def Err.ofCode (c : Byte) : Err :=
  match c.toNat with
  | 0x01 => .connectFailed
  | 0x02 => .disconnected
  | 0x03 => .timeout
  | 0x10 => .badHeader
  | 0x11 => .truncated
  | 0x12 => .crcMismatch
  | 0x13 => .badFraming
  | 0x14 => .unexpectedCommand
  | 0x15 => .payloadFormat
  | 0x20 => .unexpectedResponse
  | 0x30 => .illegalOp
  | 0x31 => .wrongVariant
  | 0x32 => .badOperand
  | _ => .ok

/-- The number of an error names its row. -/
theorem Err.ofCode_code : Function.LeftInverse Err.ofCode Err.code := by
  intro e
  cases e <;> rfl

/-- Settles O9: the numbers are the table's, and reading the table backwards tells them apart. -/
theorem errorCodes : Obligations.ErrorCodes :=
  ⟨rfl, rfl, rfl, rfl, rfl, rfl, rfl, rfl, rfl, rfl, rfl, rfl, rfl, rfl, fun _ _ h => Err.ofCode_code.injective h⟩

/-! ## raise (R221) -/

theorem Err.keepsCode_iff (e : Err) : e.keepsCode = true ↔ e = .unexpectedCommand ∨ e = .unexpectedResponse := by
  cases e <;> simp [Err.keepsCode]

/-- Settles O11: raise's record is the one R221 lists, the errors that keep RES_CODE being the two it names. -/
theorem raiseCompletesWithError : Obligations.RaiseCompletesWithError := by
  intro e s
  rw [← if_congr e.keepsCode_iff rfl rfl]
  rfl

/-! ## RES_CODE after an accept step (R222) -/

/-- RES_CODE is 0 unless STATUS holds an error that keeps it (R221, R222). -/
def CodeOnlyIfKept (t : State) : Prop := t.status.err.keepsCode = false → t.res.code = 0

theorem codeOnlyIfKept_of_code {t : State} (h : t.res.code = 0) : CodeOnlyIfKept t := fun _ => h

theorem raise_codeOnlyIfKept (e : Err) (s : State) : CodeOnlyIfKept (raise e s) := by
  intro h
  have hkeeps : e.keepsCode = false := h
  simp [hkeeps, Results.zero]

/-- R78: the other configuration raises, so only the permitted one is left to show. -/
theorem gate_codeOnlyIfKept {v : Variant} {op : State → State} {s : State} (h : CodeOnlyIfKept (op s)) :
    CodeOnlyIfKept (gate v op s) := by
  unfold gate
  split
  · exact h
  · exact raise_codeOnlyIfKept _ s

section Operations

variable {s : State} (hcode : s.res.code = 0)

include hcode

theorem encodeBinary_codeOnlyIfKept (cmd : Byte) : CodeOnlyIfKept (encodeBinary cmd s) := by
  unfold encodeBinary
  split
  · exact raise_codeOnlyIfKept _ s
  · exact codeOnlyIfKept_of_code hcode

/-- Of R124's checks only the expected command keeps a code, and a delivered body writes none. -/
theorem checkBinary_codeOnlyIfKept (ev : Bool) (exp : Byte) (body : List Byte) (rx : Half) :
    CodeOnlyIfKept (checkBinary ev exp body rx s) := by
  unfold checkBinary
  split
  · exact raise_codeOnlyIfKept _ s
  split
  · exact raise_codeOnlyIfKept _ s
  · split
    · exact raise_codeOnlyIfKept _ _
    · exact codeOnlyIfKept_of_code hcode
  · exact codeOnlyIfKept_of_code hcode

theorem decodeBinaryDin_codeOnlyIfKept (ev : Bool) (exp : Byte) : CodeOnlyIfKept (decodeBinaryDin ev exp s) := by
  unfold decodeBinaryDin
  split
  · exact raise_codeOnlyIfKept _ s
  split
  · exact raise_codeOnlyIfKept _ s
  split
  · exact raise_codeOnlyIfKept _ s
  split
  · exact raise_codeOnlyIfKept _ s
  split
  · exact raise_codeOnlyIfKept _ s
  · exact checkBinary_codeOnlyIfKept hcode ev exp _ _

theorem decodeAscii_codeOnlyIfKept (buf : List Byte) : CodeOnlyIfKept (decodeAscii buf s) := by
  simp only [decodeAscii]
  split
  · exact raise_codeOnlyIfKept _ s
  split
  · exact raise_codeOnlyIfKept _ s
  split
  · exact raise_codeOnlyIfKept _ s
  split
  · exact raise_codeOnlyIfKept _ s
  · exact codeOnlyIfKept_of_code hcode

theorem decodeWeight_codeOnlyIfKept : CodeOnlyIfKept (decodeWeight s) := by
  simp only [decodeWeight]
  split
  · exact raise_codeOnlyIfKept _ s
  split
  · exact raise_codeOnlyIfKept _ _
  split
  · exact raise_codeOnlyIfKept _ s
  · exact codeOnlyIfKept_of_code hcode

theorem startRdx_codeOnlyIfKept (n : Half) : CodeOnlyIfKept (startRdx n s) := by
  simp only [startRdx]
  split <;> exact codeOnlyIfKept_of_code hcode

/-- After accept an operation raises, or completes or starts a read without writing RES_CODE. -/
theorem operation_codeOnlyIfKept (i : Instr) : CodeOnlyIfKept (operation i s) := by
  cases i with
  | crca | crcb | rdb => exact codeOnlyIfKept_of_code hcode
  | encb | pingReq | weightReq => exact gate_codeOnlyIfKept (encodeBinary_codeOnlyIfKept hcode _)
  | decb | pingAck | weightResp | enca | deca => exact gate_codeOnlyIfKept (codeOnlyIfKept_of_code hcode)
  | decbb ev exp => exact gate_codeOnlyIfKept (decodeBinaryDin_codeOnlyIfKept hcode ev exp)
  | decw => exact gate_codeOnlyIfKept (decodeWeight_codeOnlyIfKept hcode)
  | decab => exact gate_codeOnlyIfKept (decodeAscii_codeOnlyIfKept hcode _)
  | rdx n => exact startRdx_codeOnlyIfKept hcode n

end Operations

/-- Settles O12: accept clears RES_CODE, and its operation leaves a code only with an error that keeps it. -/
theorem resCodeOnlyAfterUnexpectedCodes : Obligations.ResCodeOnlyAfterUnexpectedCodes := by
  intro i s t hexec hcommand hresponse
  rw [exec_eq] at hexec
  cases hexec
  have hkept := operation_codeOnlyIfKept (s := accept (commandWord i) (issuerPrepares i s)) rfl i
  apply hkept
  rw [Bool.eq_false_iff, ne_eq, Err.keepsCode_iff]
  exact not_or.mpr ⟨hcommand, hresponse⟩

/-! ## The idle block (R231) -/

/-- Settles O19: with no move to come the step is the block's turn, and an empty port gives it nothing to accept. -/
theorem idleBlockKeepsAllState : Obligations.IdleBlockKeepsAllState := by
  intro s hmax _ hport hs
  rw [step_of_nil ((asciiMaxLegal_iff _).mpr hmax) hs, blockStep_of_nil hport]

end Sys2Proof.Machine
end

section
/-! Reset (R260 to R262): the values of State.reset, and the step that takes a reset from any state. -/

namespace Sys2Proof.Machine

/-- Settles O5: State.reset is State.resetWith of Config's parameters, whose bound is 1024, so each item is read off. -/
theorem resetValues : Obligations.ResetValues := by
  unfold Obligations.ResetValues
  and_intros <;> rfl

/-- R260: under legal bounds the step that takes a reset puts the block to the values of R261, whatever it was doing. -/
theorem step_reset {s : State} {es : List EnvEvent} (hmax : 6 ≤ s.cfgAsciiMax.toNat)
    (hparam : 6 ≤ s.params.asciiMax.toNat) (hs : s.sched = .reset :: es) :
    step s = .next (State.resetWith s.params s.port s.stream es) := by
  rw [step_of_cons ((asciiMaxLegal_iff _).mpr hmax) hs]
  exact applyReset_next_iff.mpr ⟨(asciiMaxLegal_iff _).mpr hparam, rfl⟩

/-- Settles O6: `step_reset` gives the whole next state, and its fields are the values of R261. -/
theorem resetAtAnyStep : Obligations.ResetAtAnyStep := by
  intro s es hmax hparam hs
  refine ⟨_, step_reset hmax hparam hs, ?_⟩
  and_intros <;> rfl

end Sys2Proof.Machine
end

section
/-! Bounded completion (R280, R281): each answer ends the operation or uses up some of the bytes it can still ask
for, which are at most the 65542 of the longest frame. -/

namespace Sys2Proof.Machine

/-! ## The bytes an operation in flight can still ask for -/

/-- The most bytes DECB asks for after the read of phase p: a length of 2, a body of at most 65535, a CRC of 2 (R124). -/
def bytesAfter : Phase → Nat
  | .bHdr => 65539
  | .bLen => 65537
  | .bBody => 2
  | .idle | .bCrc | .aRead | .xRead | .rRead => 0

/-- The most bytes the operation in flight can still ask for: those of the pending request and of DECB's later reads. -/
def bytesLeft (s : State) : Nat := requestSize s + bytesAfter s.phase

/-- The operation has ended, or it asks for at most n more bytes. -/
def EndsOrLeaves (n : Nat) (t : State) : Prop := t.status.busy = false ∨ bytesLeft t ≤ n

theorem bytesLeft_of_exact {s : State} (hx : exactPhase s.phase = true) :
    bytesLeft s = s.need.toNat - s.rxbuf.length + bytesAfter s.phase :=
  congrArg (· + bytesAfter s.phase) (requestSize_of_exact hx)

theorem bytesLeft_beginRead {p : Phase} (hp : exactPhase p = true) (n : Half) (s : State) :
    bytesLeft (beginRead p n s) = n.toNat + bytesAfter p :=
  bytesLeft_of_exact (s := beginRead p n s) hp

/-- A busy block asks for at least one byte more (R55). -/
theorem Inv.bytesLeft_pos {s : State} (h : Inv s) (hbusy : s.status.busy = true) : 1 ≤ bytesLeft s :=
  (requestSize_pos h.asciiMaxLegal (h.readEnabled_of_busy hbusy)).trans (Nat.le_add_right _ _)

/-- No operation asks for more than the longest frame holds: a header of 3, a length of 2, a body of 65535, a CRC of 2. -/
theorem Inv.bytesLeft_le {s : State} (h : Inv s) : bytesLeft s ≤ 65542 := by
  have hsize := requestSize_le s
  obtain ⟨-, hbHdr, hbLen, -⟩ := h.decb
  cases hp : s.phase with
  | bHdr =>
    rw [bytesLeft_of_exact (by rw [hp]), hp, hbHdr hp]
    simp only [bytesAfter, BitVec.reduceToNat]
    omega
  | bLen =>
    obtain ⟨hneed, -⟩ := hbLen hp
    rw [bytesLeft_of_exact (by rw [hp]), hp, hneed]
    simp only [bytesAfter, BitVec.reduceToNat]
    omega
  | idle | bBody | bCrc | xRead | aRead | rRead =>
    simp only [bytesLeft, hp, bytesAfter]
    omega

/-! ## What a chunk leaves to ask for -/

/-- The length read, and what comes after it (R124). -/
theorem decbAfterHeader_leaves (hdr : List Byte) (s : State) : EndsOrLeaves (bytesAfter .bHdr) (decbAfterHeader hdr s) := by
  simp only [decbAfterHeader]
  split
  · exact .inl rfl
  · exact .inr (bytesLeft_beginRead rfl 2 _).le

/-- A body is at most 65535 bytes, and an empty one goes on to the CRC at once (R124, R186). -/
theorem decbAfterLength_leaves (lb : List Byte) (s : State) : EndsOrLeaves (bytesAfter .bLen) (decbAfterLength lb s) := by
  simp only [decbAfterLength]
  split
  · exact .inr ((bytesLeft_beginRead rfl 2 _).le.trans (by decide))
  · exact .inr ((bytesLeft_beginRead rfl _ _).le.trans
      (Nat.add_le_add_right (Nat.le_of_lt_succ (rdLe16 lb 0).isLt) 2))

theorem decbAfterBody_leaves (body : List Byte) (s : State) : EndsOrLeaves (bytesAfter .bBody) (decbAfterBody body s) :=
  .inr (bytesLeft_beginRead rfl 2 _).le

/-- A chunk of a read_exact is bytes less to ask for; one that completes it leaves what its continuation asks for. -/
theorem exactAnswer_leaves {p : Phase} {k : List Byte → State → State} {bytes : List Byte} {s : State}
    (hx : exactPhase p = true) (hp : s.phase = p) (hfits : bytes.length ≤ requestSize s)
    (hk : ∀ rx, EndsOrLeaves (bytesAfter p) (k rx { s with rxbuf := rx })) :
    EndsOrLeaves (bytesLeft s - bytes.length) (exactAnswer k (.chunk bytes) s) := by
  subst hp
  rcases exactAnswer_cases (k := k) (ans := .chunk bytes) (s := s) rfl with
    ⟨b, hchunk, -, h⟩ | ⟨b, hchunk, -, h⟩ | ⟨hclosed, -⟩ | ⟨htimedOut, -⟩
  · cases hchunk
    rw [h]
    refine .inr ?_
    rw [requestSize_of_exact hx] at hfits
    rw [bytesLeft_of_exact hx, bytesLeft_of_exact (s := { s with rxbuf := s.rxbuf ++ bytes }) hx, List.length_append]
    show s.need.toNat - (s.rxbuf.length + bytes.length) + bytesAfter s.phase ≤ _
    omega
  · cases hchunk
    rw [h]
    refine (hk _).imp_right fun hleft => hleft.trans ?_
    rw [bytesLeft]
    omega
  · cases hclosed
  · cases htimedOut

/-- A chunk ends the operation, or its bytes are no longer to ask for (R281). -/
theorem takeAnswer_chunk_leaves {bytes : List Byte} {s : State} (hs : InFlight s) (hfits : bytes.length ≤ requestSize s) :
    EndsOrLeaves (bytesLeft s - bytes.length) (takeAnswer (.chunk bytes) s) := by
  unfold takeAnswer
  split
  next hp => exact absurd hp hs.phase
  next hp => exact exactAnswer_leaves rfl hp hfits fun rx => decbAfterHeader_leaves rx _
  next hp => exact exactAnswer_leaves rfl hp hfits fun rx => decbAfterLength_leaves rx _
  next hp => exact exactAnswer_leaves rfl hp hfits fun rx => decbAfterBody_leaves rx _
  next hp =>
    refine exactAnswer_leaves rfl hp hfits fun rx => .inl ?_
    obtain ⟨-, hends, -⟩ := (checkBinary_ending _ _ _ hs.body hs.res).completed
    exact hends
  next hp => exact exactAnswer_leaves rfl hp hfits fun _ => .inl rfl
  next =>
    obtain ⟨-, hends⟩ := decodeAscii_completes_alike bytes (s := s) rfl
    exact .inl hends
  next => exact .inl rfl

/-! ## The answered run -/

/-- A stream with unread bytes withholds no answer (R55, R56). -/
theorem exists_oracle_of_unread (r : Nat) (d : Draw) {st : Stream} (h : st.unread ≠ []) :
    ∃ ans st', oracle r d st = some (ans, st') := by
  obtain ⟨unread, shut⟩ := st
  cases d with
  | timeOut => exact ⟨_, _, rfl⟩
  | close => exact ⟨_, _, rfl⟩
  | deliver k =>
    cases shut with
    | true => exact ⟨_, _, rfl⟩
    | false =>
      cases unread with
      | nil => exact absurd rfl h
      | cons b rest => exact ⟨_, _, rfl⟩

/-- Between s and t a chunk was taken: its bytes, at least one, are gone from what is to ask for, and no more from the stream. -/
structure ChunkTaken (s t : State) : Prop where
  fewer : bytesLeft t < bytesLeft s
  unread : bytesLeft t + s.stream.unread.length ≤ bytesLeft s + t.stream.unread.length

/-- An answer over a stream with unread bytes ends the operation or takes a chunk. -/
theorem step_answer_ends_or_chunkTaken {s : State} {d : Draw} {es : List EnvEvent} (h : Inv s) (hbusy : s.status.busy = true)
    (hs : s.sched = .answer d :: es) (hunread : s.stream.unread ≠ []) :
    ∃ t, step s = .next t ∧ (t.status.busy = false ∨ ChunkTaken s t) := by
  have henabled := h.readEnabled_of_busy hbusy
  have hpos := requestSize_pos h.asciiMaxLegal henabled
  obtain ⟨ans, st, horacle⟩ := exists_oracle_of_unread (requestSize s) d hunread
  refine ⟨_, step_answer h.asciiMaxLegal hs henabled horacle, ?_⟩
  have hflight : InFlight { s with sched := es, stream := st } := { h.inFlight hbusy with }
  rcases oracle_cases hpos horacle with ⟨rfl, -⟩ | ⟨rfl, -⟩ | ⟨bytes, rfl, hsome, hfits, -, hstream, -⟩
  · exact .inl (takeAnswer_timedOut_busy hflight.phase)
  · exact .inl (takeAnswer_closed_busy hflight.phase)
  · refine (takeAnswer_chunk_leaves hflight hfits).imp_right fun hleft => ?_
    have hleft : bytesLeft _ ≤ bytesLeft s - bytes.length := hleft
    have hsize : requestSize s ≤ bytesLeft s := Nat.le_add_right _ _
    refine ⟨by omega, ?_⟩
    rw [(takeAnswer_frame _ _).stream, hstream, List.length_append]
    show _ + (bytes.length + st.unread.length) ≤ bytesLeft s + st.unread.length
    omega

/-- The run from s completes the operation in flight within n steps. -/
def CompletesWithin (n : Nat) (s : State) : Prop :=
  ∃ m t, m ≤ n ∧ Host.Core.run Sys2Proof.core m s = .next t ∧ t.status.busy = false ∧ t.status.done = true

theorem CompletesWithin.of_step {n : Nat} {s t : State} (hstep : step s = .next t) :
    CompletesWithin n t → CompletesWithin (n + 1) s := by
  rintro ⟨m, u, hm, hrun, hend⟩
  exact ⟨m + 1, u, Nat.succ_le_succ hm, (run_succ m hstep).trans hrun, hend⟩

theorem CompletesWithin.mono {m n : Nat} {s : State} (hmn : m ≤ n) : CompletesWithin m s → CompletesWithin n s := by
  rintro ⟨k, t, hk, hend⟩
  exact ⟨k, t, hk.trans hmn, hend⟩

/-- Where answers and unread bytes suffice for all the operation can ask for, each answer keeps that so until it ends. -/
theorem completesWithin_bytesLeft {es : List EnvEvent} {s : State} (h : Inv s) (hbusy : s.status.busy = true)
    (hs : s.sched = es) (hanswers : ∀ e ∈ es, ∃ d, e = .answer d) (henough : bytesLeft s ≤ es.length)
    (hunread : bytesLeft s ≤ s.stream.unread.length) : CompletesWithin (bytesLeft s) s := by
  induction es generalizing s with
  | nil => exact absurd henough (Nat.not_le_of_lt (h.bytesLeft_pos hbusy))
  | cons e es ih =>
    obtain ⟨⟨d, rfl⟩, hrest⟩ := List.forall_mem_cons.mp hanswers
    have hne : s.stream.unread ≠ [] := List.ne_nil_of_length_pos ((h.bytesLeft_pos hbusy).trans hunread)
    obtain ⟨t, hstep, hnext⟩ := step_answer_ends_or_chunkTaken h hbusy hs hne
    have hmove : envMove (.answer d) { s with sched := es } = .next t := (step_of_cons h.asciiMaxLegal hs).symm.trans hstep
    obtain ⟨hsched, hstatus⟩ := envMove_of_busy (s := { s with sched := es }) { h with } hbusy hmove
    rcases Bool.eq_false_or_eq_true t.status.busy with hstill | hidle
    · obtain ⟨hfewer, htaken⟩ := hnext.resolve_left (by rw [hstill]; nofun)
      rw [List.length_cons] at henough
      have hrun := ih (stepKeepsTheInvariant s t h hstep) hstill hsched hrest (by omega) (by omega)
      exact (hrun.of_step hstep).mono hfewer
    · have hdone := (hstatus.resolve_left (by rw [hidle]; nofun)).resolve_right nofun
      exact ⟨1, t, h.bytesLeft_pos hbusy, run_one hstep, hidle, hdone⟩

/-- Settles O59: no operation asks for more than 65542 bytes, and `completesWithin_bytesLeft` runs it to its end. -/
theorem answeredOperationsComplete : Obligations.AnsweredOperationsComplete := by
  intro s h hbusy hanswers henough hunread
  have hmax := h.bytesLeft_le
  exact (completesWithin_bytesLeft h hbusy rfl hanswers (hmax.trans henough) (hmax.trans hunread)).mono hmax

end Sys2Proof.Machine
end
